-- ==== Sys2Proof/Word.lean ====
section
/-! DEFINITION. The word types of the block, each at the width spec/10_state.md gives it. -/

namespace Sys2Proof

/-- One byte: VRAM, the VDP and AY registers, and the data of a port operation (20_memory.md R70). -/
abbrev Byte := BitVec 8

/-- A palette index, one pixel of the frame buffer (10_state.md R33). -/
abbrev Colour := BitVec 4

/-- One raw audio sample, read as a signed 16-bit number (10_state.md R43, R50). -/
abbrev Sample := BitVec 16

/-- The VRAM address register's 14 bits (10_state.md R22). -/
abbrev VAddr := BitVec 14

/-- The port-operation word `dir ++ port ++ data` (30_encoding.md R90). -/
abbrev PortWord := BitVec 17

/-- One row of the output frame: 272 colour indices (10_state.md R33). -/
abbrev Row := Vector Colour 272

end Sys2Proof
end

