-- ==== Sys2Proof/Syntax.lean ====
section
/-! DEFINITION. The operations of the block: one constructor per row of spec/opcode_table.json, in the table's order. -/

namespace Sys2Proof

/-- An operation of the block. A port operation on a banded port carries its whole port number, since R90 gives the word
all eight bits and the decode ignores bits 4..1 of it. `a` is the low six bits of a second control byte (30_encoding.md
R91), `d` the data bits of an SN byte (R95), `v` a data byte. -/
inductive Instr where
  /-- VDP.CTRL1, first control byte (42_vdp_ports.md R191). -/
  | vdpCtrl1 (port : Byte) (v : Byte)
  /-- VDP.READ_SETUP, second control byte of form 00 (R192, R193). -/
  | vdpReadSetup (port : Byte) (a : BitVec 6)
  /-- VDP.WRITE_SETUP, form 01 (R192, R194). -/
  | vdpWriteSetup (port : Byte) (a : BitVec 6)
  /-- VDP.REG_FORM, form 10 (R192, R195). -/
  | vdpRegForm (port : Byte) (a : BitVec 6)
  /-- VDP.C0, form 11 (R192, R196). -/
  | vdpC0 (port : Byte) (a : BitVec 6)
  /-- VDP.DATA_WR, data port write (R198). -/
  | vdpDataWr (port : Byte) (v : Byte)
  /-- VDP.DATA_RD, data port read (R199). -/
  | vdpDataRd (port : Byte)
  /-- VDP.STATUS_RD, status read (R200). -/
  | vdpStatusRd (port : Byte)
  /-- SN.LATCH.TONE with channel field 0 (40_sn76489.md R120, R121). -/
  | snLatchTone0 (port : Byte) (d : BitVec 4)
  /-- SN.LATCH.TONE with channel field 1. -/
  | snLatchTone1 (port : Byte) (d : BitVec 4)
  /-- SN.LATCH.TONE with channel field 2. -/
  | snLatchTone2 (port : Byte) (d : BitVec 4)
  /-- SN.LATCH.NOISE (R120, R122). -/
  | snLatchNoise (port : Byte) (d : BitVec 4)
  /-- SN.LATCH.ATT (R120, R123). -/
  | snLatchAtt (port : Byte) (c : BitVec 2) (d : BitVec 4)
  /-- SN.DATA, the seven bits below bit 7 (R120, R124). -/
  | snData (port : Byte) (d : BitVec 7)
  /-- AY.ADDR, register select (41_ay8910.md R150). -/
  | ayAddr (v : Byte)
  /-- AY.WR, register write, whatever register is selected (R151). -/
  | ayWr (v : Byte)
  /-- AY.WR.TONE: AY.WR with register `r` in 0..5 selected (R152). -/
  | ayWrTone (r : Fin 6) (v : Byte)
  /-- AY.WR.NOISE: register 6 (R153). -/
  | ayWrNoise (v : Byte)
  /-- AY.WR.MIXER: register 7 (R154). -/
  | ayWrMixer (v : Byte)
  /-- AY.WR.AMP: register 8 + `i` (R155). -/
  | ayWrAmp (i : Fin 3) (v : Byte)
  /-- AY.WR.EPER: register 11 + `i` (R156). -/
  | ayWrEper (i : Fin 2) (v : Byte)
  /-- AY.WR.SHAPE: register 13 (R157). -/
  | ayWrShape (v : Byte)
  /-- AY.WR.IO: register 14 + `i` (R158). -/
  | ayWrIo (i : Fin 2) (v : Byte)
  /-- AY.RD, register read (R159). -/
  | ayRd
  /-- FRAME_EXEC, one frame (45_mixer_scheduler.md R290). -/
  | frameExec
  /-- VDP.LINE, one line step (43_vdp_render.md R221). -/
  | vdpLine
  /-- PSG_CLOCK of `c` Z80 cycles (45_mixer_scheduler.md R292). -/
  | psgClock (c : Nat)
  /-- SN.TICK (40_sn76489.md R127). -/
  | snTick
  /-- AY.TICK (41_ay8910.md R161). -/
  | ayTick
  /-- MIX (45_mixer_scheduler.md R295). -/
  | mix
  /-- RESAMPLE_AND_DELIVER (R296). -/
  | resampleAndDeliver
  deriving DecidableEq, Repr

/-- An operation that has no port word and that the scheduler or the host issues (30_encoding.md R90). -/
inductive InternalOp where
  | frameExec
  | vdpLine
  | psgClock (c : Nat)
  | snTick
  | ayTick
  | mix
  | resampleAndDeliver
  deriving DecidableEq, Repr

/-- The operation an internal issue stands for. -/
def InternalOp.instr : InternalOp → Instr
  | .frameExec => .frameExec
  | .vdpLine => .vdpLine
  | .psgClock c => .psgClock c
  | .snTick => .snTick
  | .ayTick => .ayTick
  | .mix => .mix
  | .resampleAndDeliver => .resampleAndDeliver

end Sys2Proof
end

