-- ==== Sys2Proof/WellFormed.lean ====
section
/-! DEFINITION. Which terms of Instr are operations of the block: the port of a banded operation lies in its band
(30_encoding.md R90 steps 1 and 2). -/

namespace Sys2Proof

/-- `port & 0xE0 == 0xA0` and `port[0] = 1`: the control and status port (42_vdp_ports.md R190). -/
def isVdpControlPort (port : Byte) : Bool := port &&& 0xE1 == 0xA1

/-- `port & 0xE0 == 0xA0` and `port[0] = 0`: the data port (R190). -/
def isVdpDataPort (port : Byte) : Bool := port &&& 0xE1 == 0xA0

/-- `port & 0xE0 == 0xE0`: the SN76489 band (40_sn76489.md R120). -/
def isSnPort (port : Byte) : Bool := port &&& 0xE0 == 0xE0

/-- An instruction is well formed when its port lies in the band its row names. -/
def Instr.wellFormed : Instr → Bool
  | .vdpCtrl1 port _ => isVdpControlPort port
  | .vdpReadSetup port _ => isVdpControlPort port
  | .vdpWriteSetup port _ => isVdpControlPort port
  | .vdpRegForm port _ => isVdpControlPort port
  | .vdpC0 port _ => isVdpControlPort port
  | .vdpDataWr port _ => isVdpDataPort port
  | .vdpDataRd port => isVdpDataPort port
  | .vdpStatusRd port => isVdpControlPort port
  | .snLatchTone0 port _ => isSnPort port
  | .snLatchTone1 port _ => isSnPort port
  | .snLatchTone2 port _ => isSnPort port
  | .snLatchNoise port _ => isSnPort port
  | .snLatchAtt port _ _ => isSnPort port
  | .snData port _ => isSnPort port
  | .ayAddr _ => true
  | .ayWr _ => true
  | .ayWrTone _ _ => true
  | .ayWrNoise _ => true
  | .ayWrMixer _ => true
  | .ayWrAmp _ _ => true
  | .ayWrEper _ _ => true
  | .ayWrShape _ => true
  | .ayWrIo _ _ => true
  | .ayRd => true
  | .frameExec => true
  | .vdpLine => true
  | .psgClock _ => true
  | .snTick => true
  | .ayTick => true
  | .mix => true
  | .resampleAndDeliver => true

end Sys2Proof
end

