-- ==== Sys2Proof/Decode.lean ====
section
/-! DEFINITION. The decoder of a port operation, total on any word and any bytes, and its encoder, both from
spec/30_encoding.md R90, R91, R95 and R97 and spec/opcode_table.json. A port operation is the 17-bit word
`dir ++ port ++ data`; as bytes it is that word padded to 24 bits, low byte first (notes/assumptions/3.md). -/

namespace Sys2Proof

/-- Why a word or a byte string is no operation of the block. -/
inductive Reject where
  /-- Fewer than the three bytes of a port word. -/
  | truncated
  /-- A bit above the 17 of a port word is set. -/
  | notAPortWord
  /-- R90 step 6: the port is outside the block (20_memory.md R77). -/
  | outsideBlock (write : Bool) (port : Byte)
  deriving DecidableEq, Repr

/-- What the decoder reads of the state: which byte of a control pair is next (30_encoding.md R91), and, where the rows
that refine AY.WR are wanted, the selected AY register (41_ay8910.md R151). -/
structure Latches where
  wlatch : Bool
  ayidx : Option (BitVec 4)
  deriving DecidableEq, Repr

/-- Bits 15..8 of a port word. -/
def PortWord.port (w : PortWord) : Byte := w.extractLsb' 8 8

/-- Bits 7..0 of a port word. -/
def PortWord.data (w : PortWord) : Byte := w.extractLsb' 0 8

/-- Bit 16 of a port word: set for a CPU write. -/
def PortWord.isWrite (w : PortWord) : Bool := w.getLsbD 16

/-- The second byte of a control pair, by bits 7..6 (30_encoding.md R91). -/
def decodeControl2 (port v : Byte) : Instr :=
  match v.getLsbD 7, v.getLsbD 6 with
  | false, false => .vdpReadSetup port (v.extractLsb' 0 6)
  | false, true => .vdpWriteSetup port (v.extractLsb' 0 6)
  | true, false => .vdpRegForm port (v.extractLsb' 0 6)
  | true, true => .vdpC0 port (v.extractLsb' 0 6)

/-- An SN write byte, by bit 7, bit 4 and bits 6..5 (30_encoding.md R95, 40_sn76489.md R120). -/
def decodeSn (port v : Byte) : Instr :=
  match v.getLsbD 7, v.getLsbD 4, v.getLsbD 6, v.getLsbD 5 with
  | true, true, _, _ => .snLatchAtt port (v.extractLsb' 5 2) (v.extractLsb' 0 4)
  | true, false, true, true => .snLatchNoise port (v.extractLsb' 0 4)
  | true, false, true, false => .snLatchTone2 port (v.extractLsb' 0 4)
  | true, false, false, true => .snLatchTone1 port (v.extractLsb' 0 4)
  | true, false, false, false => .snLatchTone0 port (v.extractLsb' 0 4)
  | false, _, _, _ => .snData port (v.extractLsb' 0 7)

/-- The row that AY.WR is refined to when register `r` is selected (41_ay8910.md R151). -/
def refineAyWr (r : BitVec 4) (v : Byte) : Instr :=
  if h : r.toNat < 6 then .ayWrTone ⟨r.toNat, h⟩ v
  else if r.toNat = 6 then .ayWrNoise v
  else if r.toNat = 7 then .ayWrMixer v
  else if h : r.toNat - 8 < 3 then .ayWrAmp ⟨r.toNat - 8, h⟩ v
  else if h : r.toNat - 11 < 2 then .ayWrEper ⟨r.toNat - 11, h⟩ v
  else if r.toNat = 13 then .ayWrShape v
  else .ayWrIo (if r.toNat = 14 then 0 else 1) v

/-- A write to port 0x51: AY.WR, or its refined row where the selected register is given. -/
def decodeAyWr (ayidx : Option (BitVec 4)) (v : Byte) : Instr :=
  match ayidx with
  | none => .ayWr v
  | some r => refineAyWr r v

/-- A CPU write of `v` to `port`, in R90's order. -/
def decodeWrite (l : Latches) (port v : Byte) : Except Reject Instr :=
  if port &&& 0xE0 = 0xA0 then
    if port.getLsbD 0 then
      if l.wlatch then .ok (decodeControl2 port v) else .ok (.vdpCtrl1 port v)
    else .ok (.vdpDataWr port v)
  else if port &&& 0xE0 = 0xE0 then .ok (decodeSn port v)
  else if port = 0x50 then .ok (.ayAddr v)
  else if port = 0x51 then .ok (decodeAyWr l.ayidx v)
  else .error (.outsideBlock true port)

/-- A CPU read of `port`, in R90's order. -/
def decodeRead (port : Byte) : Except Reject Instr :=
  if port &&& 0xE0 = 0xA0 then
    if port.getLsbD 0 then .ok (.vdpStatusRd port) else .ok (.vdpDataRd port)
  else if port = 0x52 then .ok .ayRd
  else .error (.outsideBlock false port)

/-- The operation of a port word (R90). The data bits of a read are ignored. -/
def decodeWord (l : Latches) (w : PortWord) : Except Reject Instr :=
  if w.isWrite then decodeWrite l w.port w.data else decodeRead w.port

/-- The operation at the head of a byte string, and the bytes after it. -/
def decodeBytes (l : Latches) : List Byte → Except Reject (Instr × List Byte)
  | b0 :: b1 :: b2 :: rest =>
    if b2 &&& 0xFE = 0 then (decodeWord l (b2.extractLsb' 0 1 ++ b1 ++ b0)).map (·, rest)
    else .error .notAPortWord
  | [] => .error .truncated
  | [_] => .error .truncated
  | [_, _] => .error .truncated

/-- The word of a CPU write: direction 1, port, data (R90). -/
def writeWord (port v : Byte) : PortWord := 1#1 ++ port ++ v

/-- The word of a CPU read: its data bits are 0 (R90). -/
def readWord (port : Byte) : PortWord := 0#1 ++ port ++ 0#8

/-- The port word of an operation; an internal operation has none (R90). -/
def encode : Instr → Option PortWord
  | .vdpCtrl1 port v => some (writeWord port v)
  | .vdpReadSetup port a => some (writeWord port (0b00#2 ++ a))
  | .vdpWriteSetup port a => some (writeWord port (0b01#2 ++ a))
  | .vdpRegForm port a => some (writeWord port (0b10#2 ++ a))
  | .vdpC0 port a => some (writeWord port (0b11#2 ++ a))
  | .vdpDataWr port v => some (writeWord port v)
  | .vdpDataRd port => some (readWord port)
  | .vdpStatusRd port => some (readWord port)
  | .snLatchTone0 port d => some (writeWord port (0b1000#4 ++ d))
  | .snLatchTone1 port d => some (writeWord port (0b1010#4 ++ d))
  | .snLatchTone2 port d => some (writeWord port (0b1100#4 ++ d))
  | .snLatchNoise port d => some (writeWord port (0b1110#4 ++ d))
  | .snLatchAtt port c d => some (writeWord port (1#1 ++ c ++ 1#1 ++ d))
  | .snData port d => some (writeWord port (0#1 ++ d))
  | .ayAddr v => some (writeWord 0x50 v)
  | .ayWr v => some (writeWord 0x51 v)
  | .ayWrTone _ v => some (writeWord 0x51 v)
  | .ayWrNoise v => some (writeWord 0x51 v)
  | .ayWrMixer v => some (writeWord 0x51 v)
  | .ayWrAmp _ v => some (writeWord 0x51 v)
  | .ayWrEper _ v => some (writeWord 0x51 v)
  | .ayWrShape v => some (writeWord 0x51 v)
  | .ayWrIo _ v => some (writeWord 0x51 v)
  | .ayRd => some (readWord 0x52)
  | .frameExec => none
  | .vdpLine => none
  | .psgClock _ => none
  | .snTick => none
  | .ayTick => none
  | .mix => none
  | .resampleAndDeliver => none

/-- The bytes of a port word, low byte first. -/
def PortWord.bytes (w : PortWord) : List Byte :=
  [w.extractLsb' 0 8, w.extractLsb' 8 8, 0#7 ++ w.extractLsb' 16 1]

/-- The state condition of an operation's row in spec/opcode_table.json: the latches under which its word decodes to it.
A row that sets no condition on a latch gets the latch's cleared value. -/
def Instr.latches : Instr → Latches
  | .vdpReadSetup _ _ => ⟨true, none⟩
  | .vdpWriteSetup _ _ => ⟨true, none⟩
  | .vdpRegForm _ _ => ⟨true, none⟩
  | .vdpC0 _ _ => ⟨true, none⟩
  | .ayWrTone r _ => ⟨false, some (BitVec.ofNat 4 r)⟩
  | .ayWrNoise _ => ⟨false, some 6⟩
  | .ayWrMixer _ => ⟨false, some 7⟩
  | .ayWrAmp i _ => ⟨false, some (BitVec.ofNat 4 (8 + i))⟩
  | .ayWrEper i _ => ⟨false, some (BitVec.ofNat 4 (11 + i))⟩
  | .ayWrShape _ => ⟨false, some 13⟩
  | .ayWrIo i _ => ⟨false, some (BitVec.ofNat 4 (14 + i))⟩
  | .vdpCtrl1 _ _ => ⟨false, none⟩
  | .vdpDataWr _ _ => ⟨false, none⟩
  | .vdpDataRd _ => ⟨false, none⟩
  | .vdpStatusRd _ => ⟨false, none⟩
  | .snLatchTone0 _ _ => ⟨false, none⟩
  | .snLatchTone1 _ _ => ⟨false, none⟩
  | .snLatchTone2 _ _ => ⟨false, none⟩
  | .snLatchNoise _ _ => ⟨false, none⟩
  | .snLatchAtt _ _ _ => ⟨false, none⟩
  | .snData _ _ => ⟨false, none⟩
  | .ayAddr _ => ⟨false, none⟩
  | .ayWr _ => ⟨false, none⟩
  | .ayRd => ⟨false, none⟩
  | .frameExec => ⟨false, none⟩
  | .vdpLine => ⟨false, none⟩
  | .psgClock _ => ⟨false, none⟩
  | .snTick => ⟨false, none⟩
  | .ayTick => ⟨false, none⟩
  | .mix => ⟨false, none⟩
  | .resampleAndDeliver => ⟨false, none⟩

/-- Whether a port word is a VDP control write. -/
def PortWord.isControlWrite (w : PortWord) : Bool := w.isWrite && isVdpControlPort w.port

/-- The wlatch under which a row of the opcode table reads a control word: forms 01, 10 and 11 name second bytes, and a
word whose bits 7..6 are 00 is read as a first byte (notes/assumptions/4.md). -/
def tableWlatch (w : PortWord) : Bool := w.isControlWrite && (w.getLsbD 7 || w.getLsbD 6)

/-- The instruction the decoder reads from the word of a row of spec/opcode_table.json. -/
def decodeTableWord (nbits w : Nat) : Option Instr :=
  let n := w % 2 ^ nbits
  let pw := BitVec.ofNat 17 n
  match decodeBytes ⟨tableWlatch pw, none⟩ [BitVec.ofNat 8 n, BitVec.ofNat 8 (n / 2 ^ 8), BitVec.ofNat 8 (n / 2 ^ 16)] with
  | .ok (i, _) => if n < 2 ^ 24 then some i else none
  | .error _ => none

end Sys2Proof
end

