-- ==== Sys2Proof/Config.lean ====
section
/-! DEFINITION. What is fixed for the life of the machine (00_scope.md R7), the free values the spec leaves open, and
the interface of the CPU oracle (45_mixer_scheduler.md R299). A parameter that is plain data is a field of `Setup`, which
State holds and no step changes; a parameter that is a function is an opaque constant. -/

namespace Sys2Proof

/-- REGION, chosen at setup and fixed (R7, decision D39). -/
inductive Region where
  | ntsc
  | pal
  deriving DecidableEq, Repr, Inhabited

/-- CTRL_C0_ACTION: what a second control byte of form 11 does (42_vdp_ports.md R196, decision D6). -/
inductive C0Action where
  | addressOnly
  | registerWrite
  deriving DecidableEq, Repr, Inhabited

/-- MIX_OVERFLOW: a mixer sum above the signed 16-bit range (45_mixer_scheduler.md R295, decision D29). -/
inductive MixOverflow where
  | wrap
  | saturate
  deriving DecidableEq, Repr, Inhabited

/-- RESET_EFFECT: what a system reset does to the block (70_reset_and_hazards.md R341, decision D35). -/
inductive ResetEffect where
  | reinit
  | unchanged
  deriving DecidableEq, Repr, Inhabited

/-- OUT_RATE: one of the four host sample rates (R7). -/
inductive OutRate where
  | hz44100
  | hz48000
  | hz96000
  | hz192000
  deriving DecidableEq, Repr, Inhabited

/-- The two palette variants the source names (R7, decision D20). -/
inductive PaletteVariant where
  | teatime
  | syoung
  deriving DecidableEq, Repr, Inhabited

/-- The parameters of R7 that are plain data. A statement about every state is a statement about every value of each. -/
structure Setup where
  region : Region
  c0Action : C0Action
  /-- DATA_WR_CLEARS_WLATCH (decision D8). -/
  dataWrClearsWlatch : Bool
  /-- DATA_WR_LOADS_DLATCH (decision D9). -/
  dataWrLoadsDlatch : Bool
  /-- TEXT_ORIGIN_X, 0..32 (decision D12). -/
  textOriginX : Fin 33
  mixOverflow : MixOverflow
  resetEffect : ResetEffect
  outRate : OutRate
  /-- QUALITY, 0..10. -/
  quality : Fin 11
  palette : PaletteVariant
  /-- PSG_BUF_CAP, the capacity of each raw sample buffer (decision D34). -/
  psgBufCap : Nat
  deriving DecidableEq, Repr, Inhabited

namespace Config

/-- CYCLES_PER_LINE, in both regions (R7, decision D43). -/
def cyclesPerLine : Nat := 228

/-- PSG_DIVIDER: Z80 cycles per PSG tick (R7). -/
def psgDivider : Nat := 16

/-- SN_WRITE_PENALTY: cycles charged per SN write (R7). -/
def snWritePenalty : Nat := 48

/-- VRAM_SIZE in bytes (R7). -/
def vramSize : Nat := 16384

/-- OVERSCAN: the border on every side, in pixels (R7). -/
def overscan : Nat := 8

/-- The number of visible lines (45_mixer_scheduler.md R297). -/
def visibleLines : Nat := 192

end Config

/-- NUM_SCANLINES: 262 if NTSC, 313 if PAL (R7). -/
def Region.numScanlines : Region → Nat
  | .ntsc => 262
  | .pal => 313

/-- Where an NMI pulse was raised (60_exceptions.md R322): the block has these two sources and no other. -/
inductive NmiSource where
  /-- Kind 1: the line step in which `line` becomes 192 (43_vdp_render.md R222). -/
  | vblank
  /-- Kind 2: a register write that sets GINT while INT is set (42_vdp_ports.md R197). -/
  | regWrite
  deriving DecidableEq, Repr

/-- What the outside is told: the observation of 00_scope.md R8 (a), (b) and the count of (d), and the ends and resets of the
CPU oracle (45_mixer_scheduler.md R293, R299, 70_reset_and_hazards.md R341). -/
inductive Event where
  /-- A read of a block port returned this byte to the CPU. -/
  | readReturned (port : Byte) (value : Byte)
  /-- One call of the CPU's `pulse_nmi()` hook (60_exceptions.md R321). -/
  | nmi (source : NmiSource)
  /-- A CPU step ended; it reported `base + penalty` cycles (45_mixer_scheduler.md R293). -/
  | cpuStepDone (base : Nat) (penalty : Nat)
  /-- The audio-ready callback was called with this sample count (45_mixer_scheduler.md R296). -/
  | audioReady (count : Nat)
  /-- A system reset called the CPU's `reset()` (70_reset_and_hazards.md R341). The host resets the CPU, not the block: the
  event stands here so that the oracle learns of it (notes/assumptions/13.md). -/
  | cpuReset
  deriving DecidableEq, Repr

/-- What the CPU oracle is told: the three things the block gives it (45_mixer_scheduler.md R299), and, DESIGN CHOICE
(notes/assumptions/1.md and 13.md), its own reset, which the host makes (70_reset_and_hazards.md R341). -/
inductive CpuInput where
  /-- The value of a read on a block port. -/
  | read (value : Byte)
  /-- One `pulse_nmi()`. -/
  | nmi
  /-- The penalty of the step that ended. -/
  | penalty (cycles : Nat)
  /-- `reset()`. -/
  | reset
  deriving DecidableEq, Repr

/-- What of an event the CPU oracle is told: not which place raised an NMI, and nothing of the audio (R299). -/
def Event.cpuInput : Event → Option CpuInput
  | .readReturned _ value => some (.read value)
  | .nmi _ => some .nmi
  | .cpuStepDone _ penalty => some (.penalty penalty)
  | .audioReady _ => none
  | .cpuReset => some .reset

/-- One step of the CPU oracle as it unfolds (45_mixer_scheduler.md R299): finitely many bus operations, each chosen with
knowledge of what the block gave back for the ones before it, then the base cycle count, an integer of at least 1. -/
inductive CpuProg where
  | done (base : PNat)
  | bus (w : PortWord) (next : List CpuInput → CpuProg)
  deriving Inhabited

/-- The raw values a power-on draws (70_reset_and_hazards.md R340). Each type holds the legal values of its element, or
values that `Machine.State.powerOn` brings into them (a register through its mask, an output through the volume table). -/
structure Draws where
  /-- The VRAM bytes from address 0 up; an address past the list's end draws 0x00. -/
  vram : List Byte
  vaddr : VAddr
  dlatch : Byte
  wlatch : Bool
  reg : Vector Byte 8
  status : Byte
  fb : Vector Row 208
  lch : Fin 4
  ltype : Bool
  att : Vector (BitVec 4) 4
  freq : Vector (BitVec 10) 3
  noise : BitVec 3
  cnt : Vector (BitVec 10) 4
  /-- `none` draws 0, `some k` the entry k of the SN volume table (10_state.md R40). -/
  out : Vector (Option (Fin 16)) 4
  freqff : BitVec 4
  ay : Vector Byte 16
  ayidx : BitVec 4
  tcnt : Vector (Fin 4096) 3
  sign : Vector Bool 3
  ncnt : Fin 64
  nshift : BitVec 17
  ecnt : Fin 131072
  eseg : Bool
  estep : Fin 16
  evol : BitVec 4
  deriving DecidableEq, Repr, Inhabited

/-- What one call of the resampler yields (45_mixer_scheduler.md R296). -/
structure Resampled where
  out : List Sample
  count : Nat
  deriving DecidableEq, Repr, Inhabited

namespace Config

/-- RESAMPLE, the black-box resampler (R296, decision D30): from the streams it has consumed since its initialiser ran
(10_state.md R54), this frame's stream, the input rate, the output rate and the quality. -/
opaque resample : List (List Sample) → List Sample → Rat → OutRate → Fin 11 → Resampled

/-- PSG_RATE_HZ, the input rate handed to the resampler (R7, decision D30). -/
opaque psgRateHz : Region → Rat

/-- The RGB value (R in bits 23..16) of palette entries 2..15 (R7, decision D20): no source gives one. -/
opaque paletteRgb : PaletteVariant → Colour → BitVec 24

/-- UNDOC_MODE_BG: the background pixel at playfield column x of the k-th line drawn in screen mode 3, 5, 6 or 7
(43_vdp_render.md R231, decision D11). -/
opaque undocModeBg : Nat → Fin 256 → Colour

/-- The draws of the k-th re-initialisation by a system reset (70_reset_and_hazards.md R341). -/
opaque powerOnDraws : Nat → Draws

/-- The CPU oracle's next step (R299), from everything it has been told so far, newest first. -/
opaque cpuStep : List CpuInput → CpuProg

end Config

end Sys2Proof
end

