-- ==== Sys2Proof/Machine/Memory.lean ====
section
/-! DEFINITION. VRAM as plain data (10_state.md R21, 20_memory.md R70): the bytes that differ from what an unlisted
address reads as, by strictly rising address. -/

namespace Sys2Proof.Machine

/-- VRAM: (address, byte) pairs in canonical form (`Memory.wf`). -/
abbrev Memory := List Host.Cell

namespace Memory

/-- What an address that no entry lists reads as: the reference draw of R21 (notes/assumptions/5.md). -/
def unlisted : Byte := 0x00

/-- `MemRead(a, 1)` (00_scope.md R11). -/
def read : Memory → Nat → Byte
  | [], _ => unlisted
  | (b, x) :: rest, a => if a = b then x else read rest a

/-- `MemWrite(a, 1, v)` (R11): writing the unlisted value removes the entry. -/
def write : Memory → Nat → Byte → Memory
  | [], a, v => if v = unlisted then [] else [(a, v)]
  | (b, x) :: rest, a, v =>
    if a < b then if v = unlisted then (b, x) :: rest else (a, v) :: (b, x) :: rest
    else if a = b then if v = unlisted then rest else (a, v) :: rest
    else (b, x) :: write rest a v

/-- Every address is at least `lo` and below the VRAM size, they rise strictly, and no entry holds the unlisted value. -/
def wfFrom : Nat → Memory → Bool
  | _, [] => true
  | lo, (a, x) :: rest => decide (lo ≤ a) && decide (a < Config.vramSize) && decide (x ≠ unlisted) && wfFrom (a + 1) rest

/-- The canonical form of VRAM. -/
def wf (m : Memory) : Bool := wfFrom 0 m

/-- The canonical memory that holds these bytes from address `a` up, as far as VRAM reaches. -/
def ofBytesFrom : Nat → List Byte → Memory
  | _, [] => []
  | a, x :: rest =>
    if a < Config.vramSize then
      if x = unlisted then ofBytesFrom (a + 1) rest else (a, x) :: ofBytesFrom (a + 1) rest
    else []

/-- The canonical memory that holds these bytes from address 0 up. -/
def ofBytes (bytes : List Byte) : Memory := ofBytesFrom 0 bytes

end Memory

end Sys2Proof.Machine
end

