-- ==== Sys2Proof/Machine/PowerOn.lean ====
section
/-! DEFINITION. The values that State.reset takes where the spec states none: the reference draws and the reference
parameters. -/

namespace Sys2Proof.Machine

/-- The reference draws: 0 for each, but nshift = 1 (10_state.md, decision D2; notes/assumptions/6.md). -/
def Draws.reference : Draws where
  vram := []
  vaddr := 0
  dlatch := 0
  wlatch := false
  reg := .replicate 8 0
  status := 0
  fb := .replicate 208 (.replicate 272 0)
  lch := 0
  ltype := false
  att := .replicate 4 0
  freq := .replicate 3 0
  noise := 0
  cnt := .replicate 4 0
  out := .replicate 4 none
  freqff := 0
  ay := .replicate 16 0
  ayidx := 0
  tcnt := .replicate 3 0
  sign := .replicate 3 false
  ncnt := 0
  nshift := 1
  ecnt := 0
  eseg := false
  estep := 0
  evol := 0

/-- The parameters of the machine after reset: the reference values of R7, and the model's own where R7 gives none
(notes/assumptions/7.md). No statement rests on them. -/
def Setup.reference : Setup where
  region := .ntsc
  c0Action := .addressOnly
  dataWrClearsWlatch := true
  dataWrLoadsDlatch := true
  textOriginX := 16
  mixOverflow := .wrap
  resetEffect := .reinit
  outRate := .hz48000
  quality := 5
  palette := .teatime
  psgBufCap := 65536

end Sys2Proof.Machine
end

