-- ==== Sys2Proof/Machine/Tables.lean ====
section
/-! DEFINITION. The constant tables of the block: volume tables and register masks. -/

namespace Sys2Proof.Machine

/-- VT_SN, the SN volume table; index 15 is silence (40_sn76489.md R125). -/
def vtSn : Vector Sample 16 :=
  #v[0x1FFF, 0x196B, 0x1431, 0x100A, 0x0CBD, 0x0A1F, 0x080A, 0x066A,
     0x0512, 0x0407, 0x0333, 0x028B, 0x0205, 0x019B, 0x0146, 0x0000]

/-- VT_AY, the AY volume table; index 0 is silence (41_ay8910.md R163). -/
def vtAy : Vector Nat 16 :=
  #v[0, 40, 60, 86, 124, 186, 264, 440, 518, 840, 1196, 1526, 2016, 2602, 3300, 4096]

/-- MASK, the VDP registers' stored bits (10_state.md R25, 42_vdp_ports.md R197). -/
def vdpMask : Vector Byte 8 := #v[0x03, 0xFB, 0x0F, 0xFF, 0x07, 0x7F, 0x07, 0xFF]

/-- AYMASK, the AY registers' stored bits (10_state.md R44, 41_ay8910.md R151). -/
def ayMask : Vector Byte 16 :=
  #v[0xFF, 0x0F, 0xFF, 0x0F, 0xFF, 0x0F, 0x1F, 0xFF, 0x1F, 0x1F, 0x1F, 0xFF, 0xFF, 0x0F, 0xFF, 0xFF]

end Sys2Proof.Machine
end

