-- ==== Sys2Proof/Machine/State.lean ====
section
/-! DEFINITION. The state of the block (10_state.md R20), the reasons a step can stop, and power-on
(70_reset_and_hazards.md R340). -/

namespace Sys2Proof.Machine

/-- The TMS9928A's state (10_state.md R21 to R33). The table bases (R28) are functions of `reg`; `dot`, `linebuf` and
`cbuf` (R32, R34) are local to a line step. -/
structure Vdp where
  /-- 16384 bytes of VRAM (R21). -/
  vram : Memory
  /-- The VRAM address register (R22). -/
  vaddr : VAddr
  /-- The data latch: read-ahead byte and first control byte (R23). -/
  dlatch : Byte
  /-- The write-step latch: set when the next control byte is the second of a pair (R24). -/
  wlatch : Bool
  /-- The eight control registers (R25 to R29). -/
  reg : Vector Byte 8
  /-- INT, 5S, C and FS (R30). -/
  status : Byte
  /-- The line the next line step renders (R31). -/
  line : Nat
  /-- The output frame buffer, `fb[row][column]` (R33). -/
  fb : Vector Row 208
  deriving DecidableEq, Repr

/-- The SN76489AN's state (R35 to R43). -/
structure Sn where
  /-- The latched channel (R35). -/
  lch : Fin 4
  /-- The latched type: set for the attenuator (R35). -/
  ltype : Bool
  /-- The attenuators; 3 is the noise channel's (R36). -/
  att : Vector (BitVec 4) 4
  /-- The tone periods (R37). -/
  freq : Vector (BitVec 10) 3
  /-- The noise register: FB in bit 2, NR in bits 1..0 (R38). -/
  noise : BitVec 3
  /-- The down-counters (R39). -/
  cnt : Vector (BitVec 10) 4
  /-- The channel outputs (R40). -/
  out : Vector Sample 4
  /-- The flip-flop vector (R41). -/
  freqff : BitVec 4
  /-- The noise shift register (R42). -/
  lfsr : BitVec 15
  /-- The raw sample buffer, oldest first (R43). -/
  snbuf : List Sample
  /-- This frame's sample count (R53). -/
  psgsamps : Nat
  deriving DecidableEq, Repr

/-- The AY-3-8910's state (R44 to R50). The periods, disables, amplitudes and modes (R46) are functions of `reg`. -/
structure Ay where
  /-- The sixteen registers `ay[0..15]` (R44). -/
  reg : Vector Byte 16
  /-- The latched register index (R45). -/
  ayidx : BitVec 4
  /-- The tone counters, natural numbers (R47, decision D26). -/
  tcnt : Vector Nat 3
  /-- The tone-sign bits (R47). -/
  sign : Vector Bool 3
  /-- The noise counter, a natural number (R48). -/
  ncnt : Nat
  /-- The 17-bit noise shift register (R48). -/
  nshift : BitVec 17
  /-- The envelope counter, unbounded (R49). -/
  ecnt : Nat
  /-- The envelope segment: set for segment 1 (R49). -/
  eseg : Bool
  /-- The step within a segment (R49). -/
  estep : Fin 16
  /-- The envelope volume (R49). -/
  evol : BitVec 4
  /-- The raw sample buffer, oldest first (R50). -/
  aybuf : List Sample
  /-- This frame's sample count (R53). -/
  sgmpsgsamps : Nat
  deriving DecidableEq, Repr

/-- The scheduler's and the mixer's state (R51 to R54). `linecycs` and `reqcycs` (R55) are local to a frame step. -/
structure Sched where
  /-- The residual cycle credit (R51). -/
  extcycs : Nat
  /-- The divide-by-16 PSG clock accumulator (R52). -/
  psgcycs : Nat
  /-- `step_penalty`, the extra cycles of the CPU step in progress (45_mixer_scheduler.md R293). -/
  stepPenalty : Nat
  /-- `rs`, the resampler's state, held as the streams it has consumed since its initialiser ran, newest first (R54). -/
  rs : List (List Sample)
  /-- `outbuf`, the resampled samples of the last frame delivered (45_mixer_scheduler.md R296). -/
  outbuf : List Sample
  deriving DecidableEq, Repr

/-- One CPU step given from outside as data (R299): its bus operations in order and its base cycle count, at least 1. -/
structure CpuStep where
  ops : List PortWord
  base : PNat
  deriving DecidableEq, Repr

/-- One entry of the stream of operations that a run applies (00_scope.md R12). -/
inductive Issue where
  /-- A bus operation of the CPU. -/
  | word (w : PortWord)
  /-- An operation that has no word, issued by the scheduler or the host. -/
  | op (k : InternalOp)
  /-- A system reset, a host call between frame steps (70_reset_and_hazards.md R341). -/
  | systemReset
  deriving DecidableEq, Repr

/-- The block's inputs and outputs, the model's own fields. -/
structure Env where
  /-- Operations to apply before the host's next frame step, in order. -/
  stream : List Issue
  /-- CPU steps already determined, in order; after them the steps are the opaque oracle's. -/
  cpuSteps : List CpuStep
  /-- What the block has given the outside, newest first (00_scope.md R8). -/
  events : List Event
  /-- The number of undocumented-mode lines drawn: the argument of the next free draw (43_vdp_render.md R231). -/
  undocDraws : Nat
  /-- The number of re-initialisations: the argument of the next power-on's draws (70_reset_and_hazards.md R341). -/
  resets : Nat
  deriving DecidableEq, Repr

/-- The machine: the tuple (VDP, SN, AY, SCHED) of R20, the parameters, and the inputs and outputs. -/
structure State where
  vdp : Vdp
  sn : Sn
  ay : Ay
  sched : Sched
  cfg : Setup
  env : Env
  deriving DecidableEq, Repr

/-- Why a step stops. The block itself has no fault (60_exceptions.md R320). -/
inductive Fault where
  /-- Stuck: raised by a PSG tick (SN.TICK, AY.TICK, and PSG_CLOCK and FRAME_EXEC through them) whose raw sample buffer
  already holds PSG_BUF_CAP samples (40_sn76489.md R127, 41_ay8910.md R161, decision D34). Safe: the model stops. -/
  | psgBufferFull
  deriving DecidableEq, Repr

/-- Why a step is refused. -/
inductive Refusal where
  /-- Raised by an arm of `exec` that has no meaning yet; no arm is one. Safe: the model stops. -/
  | notModelled (mnemonic : String)
  deriving DecidableEq, Repr

/-- NUM_SCANLINES of this machine's region (00_scope.md R7). -/
abbrev State.numScanlines (s : State) : Nat := s.cfg.region.numScanlines

/-- The VDP at power-on (70_reset_and_hazards.md R340): `line = 0`, every other element a draw. -/
def Vdp.powerOn (d : Draws) : Vdp where
  vram := Memory.ofBytes d.vram
  vaddr := d.vaddr
  dlatch := d.dlatch
  wlatch := d.wlatch
  reg := Vector.zipWith (· &&& ·) d.reg vdpMask
  status := d.status
  line := 0
  fb := d.fb

/-- The SN at power-on: `lfsr = 0x4000`, no sample, every other element a draw. -/
def Sn.powerOn (d : Draws) : Sn where
  lch := d.lch
  ltype := d.ltype
  att := d.att
  freq := d.freq
  noise := d.noise
  cnt := d.cnt
  out := d.out.map fun o => o.elim 0 fun k => vtSn[k]
  freqff := d.freqff
  lfsr := 0x4000
  snbuf := []
  psgsamps := 0

/-- The AY at power-on: no sample, every other element a draw. -/
def Ay.powerOn (d : Draws) : Ay where
  reg := Vector.zipWith (· &&& ·) d.ay ayMask
  ayidx := d.ayidx
  tcnt := d.tcnt.map (·.val)
  sign := d.sign
  ncnt := d.ncnt
  nshift := d.nshift
  ecnt := d.ecnt
  eseg := d.eseg
  estep := d.estep
  evol := d.evol
  aybuf := []
  sgmpsgsamps := 0

/-- The scheduler at power-on: `extcycs = 0`, `psgcycs = 0`, the resampler as its initialiser leaves it. -/
def Sched.powerOn : Sched where
  extcycs := 0
  psgcycs := 0
  stepPenalty := 0
  rs := []
  outbuf := []

/-- Power-on (`init`) with these draws, parameters and surroundings (70_reset_and_hazards.md R340). -/
def State.powerOn (d : Draws) (cfg : Setup) (env : Env) : State where
  vdp := Vdp.powerOn d
  sn := Sn.powerOn d
  ay := Ay.powerOn d
  sched := Sched.powerOn
  cfg := cfg
  env := env

/-- Nothing given to the machine and nothing given by it yet. -/
def Env.empty : Env where
  stream := []
  cpuSteps := []
  events := []
  undocDraws := 0
  resets := 0

/-- The machine right after reset: power-on with the reference draws. -/
def State.reset : State := State.powerOn Draws.reference Setup.reference Env.empty

end Sys2Proof.Machine
end

