-- ==== Sys2Proof/Machine/Operands.lean ====
section
/-! DEFINITION. The fields and derived values that operations read from the registers: VDP modes and table bases
(10_state.md R26 to R29, 43_vdp_render.md R220), sprite geometry (44_vdp_sprites.md R260), the SN noise fields (R38) and
the AY derived values (R46). -/

namespace Sys2Proof.Machine

/-- Bits 7..4 of a colour byte or of R7. -/
def hiNibble (b : Byte) : Colour := b.extractLsb' 4 4

/-- Bits 3..0 of a colour byte or of R7. -/
def loNibble (b : Byte) : Colour := b.extractLsb' 0 4

/-- Pixel `b` of a pattern byte, 0 the leftmost: bit 7 is the leftmost pixel (43_vdp_render.md R232). -/
def patternBit (pat : Byte) (b : Nat) : Bool := pat.getLsbD (7 - b)

/-- The screen modes (R220). -/
inductive ScreenMode where
  | graphics1
  | text
  | graphics2
  | multicolor
  | undocumented
  deriving DecidableEq, Repr

namespace Vdp

/-- BL, R1 bit 6: rendering enabled (R27). -/
def bl (v : Vdp) : Bool := v.reg[1].getLsbD 6

/-- GINT, R1 bit 5: the VBlank interrupt enable (R27). -/
def gint (v : Vdp) : Bool := v.reg[1].getLsbD 5

/-- The mode number `M = ((reg[1] >> 4) & 1) | (reg[0] & 2) | (((reg[1] >> 3) & 1) << 2)` (R220). -/
def modeNumber (v : Vdp) : Byte :=
  ((v.reg[1] >>> 4) &&& 1) ||| (v.reg[0] &&& 2) ||| (((v.reg[1] >>> 3) &&& 1) <<< 2)

/-- The screen mode: 0, 1, 2 and 4 are the documented ones (R220). -/
def mode (v : Vdp) : ScreenMode :=
  if v.modeNumber = 0 then .graphics1
  else if v.modeNumber = 1 then .text
  else if v.modeNumber = 2 then .graphics2
  else if v.modeNumber = 4 then .multicolor
  else .undocumented

/-- BD, the backdrop colour (R29). -/
def bd (v : Vdp) : Colour := loNibble v.reg[7]

/-- TFG, the Text-mode foreground (R29). -/
def tfg (v : Vdp) : Colour := hiNibble v.reg[7]

/-- `tbl_pname = R2 << 10` (R28). -/
def tblPname (v : Vdp) : Nat := v.reg[2].toNat <<< 10

/-- `tbl_col = R3 << 6` (R28). -/
def tblCol (v : Vdp) : Nat := v.reg[3].toNat <<< 6

/-- `tbl_pgen = R4 << 11` (R28). -/
def tblPgen (v : Vdp) : Nat := v.reg[4].toNat <<< 11

/-- `tbl_sattr = R5 << 7` (R28). -/
def tblSattr (v : Vdp) : Nat := v.reg[5].toNat <<< 7

/-- `tbl_spgen = R6 << 11` (R28). -/
def tblSpgen (v : Vdp) : Nat := v.reg[6].toNat <<< 11

/-- Graphics 2: `pmask = ((reg[4] & 3) << 8) | 0xFF` (43_vdp_render.md R228). -/
def g2Pmask (v : Vdp) : Nat := ((v.reg[4].toNat &&& 3) <<< 8) ||| 0xFF

/-- Graphics 2: `cmask = ((reg[3] & 0x7F) << 3) | 7` (R228). -/
def g2Cmask (v : Vdp) : Nat := ((v.reg[3].toNat &&& 0x7F) <<< 3) ||| 7

/-- Graphics 2: `offset_pgen = (reg[4] & 4) << 11` (R228). -/
def g2OffsetPgen (v : Vdp) : Nat := (v.reg[4].toNat &&& 4) <<< 11

/-- Graphics 2: `offset_col = tbl_col & 0x2000` (R228). -/
def g2OffsetCol (v : Vdp) : Nat := v.tblCol &&& 0x2000

/-- `mag = reg[1] & 1`, as the shift it is used for (44_vdp_sprites.md R260). -/
def spriteMag (v : Vdp) : Nat := v.reg[1].toNat &&& 1

/-- `size = (reg[1] & 2) ? 16 : 8` (R260). -/
def spriteSize (v : Vdp) : Nat := if v.reg[1].getLsbD 1 then 16 else 8

/-- `ext = size << mag`, a sprite's extent on screen (R260). -/
def spriteExt (v : Vdp) : Nat := v.spriteSize <<< v.spriteMag

/-- The byte of VRAM at a computed address (00_scope.md R11). -/
def vramAt (v : Vdp) (a : Nat) : Byte := v.vram.read a

end Vdp

namespace Sn

/-- NR, the noise shift rate: noise bits 1..0 (R38). -/
def nr (c : Sn) : Nat := c.noise.toNat &&& 3

/-- FB, the noise feedback select: noise bit 2, set for white noise (R38). -/
def fb (c : Sn) : Bool := c.noise.getLsbD 2

/-- The volume of channel `i` at its attenuator's setting (40_sn76489.md R125). -/
def volume (c : Sn) (i : Fin 4) : Sample := vtSn[c.att[i].toNat]

end Sn

namespace Ay

/-- `tperiod[i]`, 0 taken as 1 (R46). -/
def tperiod (a : Ay) (i : Fin 3) : Nat :=
  max 1 (a.reg[2 * i.val].toNat ||| (a.reg[2 * i.val + 1].toNat <<< 8))

/-- `nperiod`, 0 taken as 1 (R46). -/
def nperiod (a : Ay) : Nat := max 1 a.reg[6].toNat

/-- `eperiod`, without a clamp (R46). -/
def eperiod (a : Ay) : Nat := a.reg[11].toNat ||| (a.reg[12].toNat <<< 8)

/-- `tdisable[i]`, bit `i` of register 7 (R46). -/
def tdisable (a : Ay) (i : Fin 3) : Bool := a.reg[7].getLsbD i

/-- `ndisable[i]`, bit `3 + i` of register 7 (R46). -/
def ndisable (a : Ay) (i : Fin 3) : Bool := a.reg[7].getLsbD (3 + i)

/-- `amplitude[i]`, bits 3..0 of register `8 + i` (R46). -/
def amplitude (a : Ay) (i : Fin 3) : BitVec 4 := loNibble a.reg[8 + i.val]

/-- `emode[i]`, bit 4 of register `8 + i` (R46). -/
def emode (a : Ay) (i : Fin 3) : Bool := a.reg[8 + i.val].getLsbD 4

/-- S, the envelope shape: bits 3..0 of register 13 (41_ay8910.md R157). -/
def shape (a : Ay) : BitVec 4 := loNibble a.reg[13]

/-- The Attack bit of the shape, `S & 0x04` (R160). -/
def attack (a : Ay) : Bool := a.shape.getLsbD 2

end Ay

end Sys2Proof.Machine
end

