-- ==== Sys2Proof/Machine/Flags.lean ====
section
/-! DEFINITION. The status register's flags INT, 5S and C and its field FS (10_state.md R30), and the two conditions under
which the VDP raises NMI (60_exceptions.md R322). -/

namespace Sys2Proof.Machine

namespace Status

/-- INT, status bit 7. -/
def int (status : Byte) : Bool := status.getLsbD 7

/-- 5S, status bit 6. -/
def fifth (status : Byte) : Bool := status.getLsbD 6

/-- C, status bit 5. -/
def collision (status : Byte) : Bool := status.getLsbD 5

/-- FS, status bits 4..0. -/
def fs (status : Byte) : BitVec 5 := status.extractLsb' 0 5

/-- Setting INT at the VBlank (43_vdp_render.md R222). -/
def setInt (status : Byte) : Byte := status ||| 0x80

/-- Setting 5S at the fifth covering sprite (44_vdp_sprites.md R265). -/
def setFifth (status : Byte) : Byte := status ||| 0x40

/-- Setting C where two set pattern bits meet (R267). -/
def setCollision (status : Byte) : Byte := status ||| 0x20

/-- Writing the index of a walked sprite entry to FS, bits 7..5 kept (R270). -/
def setFs (status : Byte) (n : Nat) : Byte := (status &&& 0xE0) ||| (BitVec.ofNat 8 n &&& 0x1F)

/-- What a status read leaves: INT, 5S and C cleared, FS kept (42_vdp_ports.md R200). -/
def afterRead (status : Byte) : Byte := status &&& 0x1F

end Status

/-- Kind 1: GINT set and INT clear just before the VBlank sets it, the re-entrancy guard (43_vdp_render.md R222). -/
def Vdp.vblankRaises (v : Vdp) : Bool := v.gint && !Status.int v.status

/-- Kind 2: register 1 is written, GINT was clear and is now set, and INT is set (42_vdp_ports.md R197). -/
def regWriteRaises (r : Fin 8) (before after : Vdp) : Bool :=
  decide (r = 1) && !before.gint && after.gint && Status.int after.status

end Sys2Proof.Machine
end

