-- ==== Sys2Proof/Machine/Ops.lean ====
section
/-! DEFINITION. The named operations that the meanings share: field updates, outcomes, the events given to the outside
(the NMI among them, 60_exceptions.md R321), the SN write charge, and the accesses to VRAM and the registers. -/

namespace Sys2Proof.Machine

/-- The outcome of a step of this machine. -/
abbrev Result (σ : Type) := Host.Outcome σ Fault Refusal

/-- Go on with a next state; a fault or a refusal ends the step. -/
def andThen {σ τ : Type} (r : Result σ) (k : σ → Result τ) : Result τ :=
  match r with
  | .next s => k s
  | .fault f => .fault f
  | .refused f => .refused f

namespace State

/-- What the decoder reads of the state (30_encoding.md R91). AY.WR is decoded as its unrefined row: its meaning selects the
register's effect itself, as R151 does. -/
def latches (s : State) : Latches := ⟨s.vdp.wlatch, none⟩

/-- Replace the VDP's state. -/
def setVdp (s : State) (v : Vdp) : State := { s with vdp := v }

/-- Replace the SN's state. -/
def setSn (s : State) (c : Sn) : State := { s with sn := c }

/-- Replace the AY's state. -/
def setAy (s : State) (a : Ay) : State := { s with ay := a }

/-- Replace the scheduler's state. -/
def setSched (s : State) (c : Sched) : State := { s with sched := c }

/-- Replace the inputs and outputs. -/
def setEnv (s : State) (e : Env) : State := { s with env := e }

/-- Give the outside one event. -/
def emit (s : State) (e : Event) : State := s.setEnv { s.env with events := e :: s.env.events }

/-- `raise NMI()`, the block's one exception output: one `pulse_nmi()` call, at once. The block saves nothing, keeps no
pending flag and goes on; entry and return are the CPU's (60_exceptions.md R321, R326). -/
def raiseNmi (s : State) (src : NmiSource) : State := s.emit (.nmi src)

/-- Return a byte to the CPU (00_scope.md R8 (a)). -/
def giveRead (s : State) (port value : Byte) : State := s.emit (.readReturned port value)

/-- Charge the CPU step in progress for one SN write (40_sn76489.md R120). -/
def chargeSnWrite (s : State) : State :=
  s.setSched { s.sched with stepPenalty := s.sched.stepPenalty + Config.snWritePenalty }

end State

namespace Vdp

/-- The second control byte's shared effect: all of vaddr assembled, wlatch cleared (42_vdp_ports.md R192, 30_encoding.md
R92). -/
def assemble (v : Vdp) (a : BitVec 6) : Vdp := { v with vaddr := a ++ v.dlatch, wlatch := false }

/-- Refill dlatch from VRAM at vaddr and advance vaddr modulo 0x4000 (42_vdp_ports.md R193, R199). -/
def refill (v : Vdp) : Vdp := { v with dlatch := v.vramAt v.vaddr.toNat, vaddr := v.vaddr + 1 }

/-- Store a byte at vaddr and advance vaddr modulo 0x4000 (42_vdp_ports.md R198). -/
def storeByte (v : Vdp) (x : Byte) : Vdp := { v with vram := v.vram.write v.vaddr.toNat x, vaddr := v.vaddr + 1 }

/-- Store a register through its mask (30_encoding.md R93). -/
def storeReg (v : Vdp) (r : Fin 8) (x : Byte) : Vdp := { v with reg := v.reg.set r (x &&& vdpMask[r]) }

/-- Replace the frame-buffer row of `line`, row `line + 8` (43_vdp_render.md R226). -/
def paintRow (v : Vdp) (row : Row) : Vdp :=
  { v with fb := v.fb.setIfInBounds (v.line + Config.overscan) row }

end Vdp

/-- VDP_REG_WR(r, value), the register write primitive (42_vdp_ports.md R197). -/
def vdpRegWr (r : Fin 8) (value : Byte) (s : State) : State :=
  let v := s.vdp.storeReg r value
  if regWriteRaises r s.vdp v then (s.setVdp v).raiseNmi .regWrite else s.setVdp v

/-- Store an AY register through its mask (41_ay8910.md R151). -/
def Ay.storeReg (a : Ay) (r : Fin 16) (x : Byte) : Ay := { a with reg := a.reg.set r (x &&& ayMask[r]) }

end Sys2Proof.Machine
end

