-- ==== Sys2Proof/Machine/AyPsg.lean ====
section
/-! DEFINITION. The AY-3-8910: its port operations, its envelope and its tick (spec/41_ay8910.md). -/

namespace Sys2Proof.Machine

namespace Ay

/-- The shapes whose segment 1 starts at 15 (R160). -/
def highSegment1 (shape : BitVec 4) : Bool := shape == 8 || shape == 11 || shape == 13 || shape == 14

/-- ENV_RESET() (R160). -/
def envReset (a : Ay) : Ay :=
  { a with
    evol := if a.eseg then (if highSegment1 a.shape then 15 else 0) else (if a.attack then 0 else 15)
    estep := 0 }

/-- How one envelope step moves evol (R162): segment 1 counts by shape, segment 0 by the Attack bit. DESIGN CHOICE: a move
past 15 or below 0, which only a power-on draw of eseg, estep and evol can lead to, wraps modulo 16
(notes/assumptions/24.md). -/
def envMove (a : Ay) : BitVec 4 :=
  if a.eseg then
    if a.shape = 10 ∨ a.shape = 12 then a.evol + 1
    else if a.shape = 8 ∨ a.shape = 14 then a.evol - 1
    else a.evol
  else if a.attack then a.evol + 1
  else a.evol - 1

/-- The segment after the sixteenth step: toggled when `(S & 0x09) == 0x08`, else 1 (R162). -/
def nextSegment (a : Ay) : Bool := if a.shape &&& 0x9 = 0x8 then !a.eseg else true

/-- ENV_STEP() (R162). -/
def envStep (a : Ay) : Ay :=
  let evol := if a.estep.val = 0 then a.evol else a.envMove
  if h : a.estep.val + 1 < 16 then { a with evol := evol, estep := ⟨a.estep.val + 1, h⟩ }
  else { a with eseg := a.nextSegment }.envReset

/-- The effect of writing the shape register: the envelope restarts (R157). -/
def restartEnvelope (a : Ay) : Ay := { a with ecnt := 0, eseg := false }.envReset

/-- One tick of tone channel `i` (R161). -/
def tickTone (a : Ay) (i : Fin 3) : Ay :=
  if a.tperiod i ≤ a.tcnt[i] + 1 then { a with tcnt := a.tcnt.set i 0, sign := a.sign.set i (!a.sign[i]) }
  else { a with tcnt := a.tcnt.set i (a.tcnt[i] + 1) }

/-- The 17-bit noise update (R161, R166). -/
def noiseShift (n : BitVec 17) : BitVec 17 := (n >>> 1) ||| (((n ^^^ (n >>> 3)) &&& 1) <<< 16)

/-- One tick of the noise generator (R161). -/
def tickNoise (a : Ay) : Ay :=
  if a.nperiod <<< 1 ≤ a.ncnt + 1 then { a with ncnt := 0, nshift := noiseShift a.nshift }
  else { a with ncnt := a.ncnt + 1 }

/-- One tick of the envelope (R161). -/
def tickEnvelope (a : Ay) : Ay :=
  if a.eperiod <<< 1 ≤ a.ecnt + 1 then { a with ecnt := 0 }.envStep else { a with ecnt := a.ecnt + 1 }

/-- Whether channel `i` adds to the mix (R164). -/
def audible (a : Ay) (i : Fin 3) : Bool :=
  (a.tdisable i || a.sign[i]) && (a.ndisable i || a.nshift.getLsbD 0)

/-- What channel `i` adds to the mix (R164). -/
def contribution (a : Ay) (i : Fin 3) : Nat :=
  if a.audible i then (if a.emode i then vtAy[a.evol.toNat] else vtAy[(a.amplitude i).toNat]) else 0

/-- The sample of a tick (R164). -/
def mixed (a : Ay) : Sample := BitVec.ofNat 16 (a.contribution 0 + a.contribution 1 + a.contribution 2)

/-- The generators of one tick, in order (R161). -/
def tickGenerators (a : Ay) : Ay := (((a.tickTone 0).tickTone 1).tickTone 2).tickNoise.tickEnvelope

/-- Append a sample and count it (R161). -/
def appendSample (a : Ay) (x : Sample) : Ay := { a with aybuf := a.aybuf ++ [x], sgmpsgsamps := a.sgmpsgsamps + 1 }

/-- AY_TICK() on a buffer with room: the mix uses the values after the updates (R161). -/
def tick (a : Ay) : Ay := a.tickGenerators.appendSample a.tickGenerators.mixed

end Ay

/-- Register select: bits 7..4 are ignored (R150). -/
def ayAddr (v : Byte) (s : State) : State := s.setAy { s.ay with ayidx := v.extractLsb' 0 4 }

/-- AY_WR to a tone register: the store alone (R151, R152). -/
def ayWrTone (r : Fin 6) (v : Byte) (s : State) : State := s.setAy (s.ay.storeReg ⟨r, by omega⟩ v)

/-- AY_WR to the noise period: the store alone (R151, R153). -/
def ayWrNoise (v : Byte) (s : State) : State := s.setAy (s.ay.storeReg 6 v)

/-- AY_WR to the mixer register: the store alone (R151, R154). -/
def ayWrMixer (v : Byte) (s : State) : State := s.setAy (s.ay.storeReg 7 v)

/-- AY_WR to an amplitude register: the store alone (R151, R155). -/
def ayWrAmp (i : Fin 3) (v : Byte) (s : State) : State := s.setAy (s.ay.storeReg ⟨8 + i, by omega⟩ v)

/-- AY_WR to an envelope period register: the store alone (R151, R156). -/
def ayWrEper (i : Fin 2) (v : Byte) (s : State) : State := s.setAy (s.ay.storeReg ⟨11 + i, by omega⟩ v)

/-- AY_WR to the shape register: the store, then the envelope restarts (R151, R157). -/
def ayWrShape (v : Byte) (s : State) : State := s.setAy (s.ay.storeReg 13 v).restartEnvelope

/-- AY_WR to an I/O register: the store alone (R151, R158). -/
def ayWrIo (i : Fin 2) (v : Byte) (s : State) : State := s.setAy (s.ay.storeReg ⟨14 + i, by omega⟩ v)

/-- AY_WR(v): the per-register effect of the selected register (R151). -/
def ayWr (v : Byte) (s : State) : State :=
  let r := s.ay.ayidx.toNat
  if h : r < 6 then ayWrTone ⟨r, h⟩ v s
  else if r = 6 then ayWrNoise v s
  else if r = 7 then ayWrMixer v s
  else if h : r - 8 < 3 then ayWrAmp ⟨r - 8, h⟩ v s
  else if h : r - 11 < 2 then ayWrEper ⟨r - 11, h⟩ v s
  else if r = 13 then ayWrShape v s
  else ayWrIo (if r = 14 then 0 else 1) v s

/-- The selected register, as stored (R159). -/
def Ay.selected (a : Ay) : Byte := a.reg[a.ayidx.toNat]

/-- AY_RD: no side effect (R159). -/
def ayRd (s : State) : State := s.giveRead 0x52 s.ay.selected

/-- AY_TICK(); a full buffer has no step (R161, decision D34). -/
def ayTick (s : State) : Result State :=
  if s.ay.aybuf.length < s.cfg.psgBufCap then .next (s.setAy s.ay.tick) else .fault .psgBufferFull

/-- AY.ADDR. -/
def execAyAddr (v : Byte) (s : State) : Result State := .next (ayAddr v s)

/-- AY.WR. -/
def execAyWr (v : Byte) (s : State) : Result State := .next (ayWr v s)

/-- AY.WR.TONE. -/
def execAyWrTone (r : Fin 6) (v : Byte) (s : State) : Result State := .next (ayWrTone r v s)

/-- AY.WR.NOISE. -/
def execAyWrNoise (v : Byte) (s : State) : Result State := .next (ayWrNoise v s)

/-- AY.WR.MIXER. -/
def execAyWrMixer (v : Byte) (s : State) : Result State := .next (ayWrMixer v s)

/-- AY.WR.AMP. -/
def execAyWrAmp (i : Fin 3) (v : Byte) (s : State) : Result State := .next (ayWrAmp i v s)

/-- AY.WR.EPER. -/
def execAyWrEper (i : Fin 2) (v : Byte) (s : State) : Result State := .next (ayWrEper i v s)

/-- AY.WR.SHAPE. -/
def execAyWrShape (v : Byte) (s : State) : Result State := .next (ayWrShape v s)

/-- AY.WR.IO. -/
def execAyWrIo (i : Fin 2) (v : Byte) (s : State) : Result State := .next (ayWrIo i v s)

/-- AY.RD. -/
def execAyRd (s : State) : Result State := .next (ayRd s)

/-- AY.TICK. -/
def execAyTick (s : State) : Result State := ayTick s

end Sys2Proof.Machine
end

