-- ==== Sys2Proof/Machine/SnPsg.lean ====
section
/-! DEFINITION. The SN76489AN: its writes and its tick (spec/40_sn76489.md). Every write charges the CPU step in progress
(R120). -/

namespace Sys2Proof.Machine

/-- `lfsr_shift(l, fb)` (R126): white noise feeds back the parity of bits 1..0, periodic noise the old bit 0. -/
def lfsrShift (l : BitVec 15) (fb : Bool) : BitVec 15 :=
  let bit := if fb then (l ^^^ (l >>> 1)) &&& 1 else l &&& 1
  (l >>> 1) ||| (bit <<< 14)

namespace Sn

/-- SN_LATCH_TONE for channel `c`: latch it and replace the low four bits of its period (R121). -/
def latchTone (s : Sn) (c : Fin 3) (d : BitVec 4) : Sn :=
  { s with lch := c.castSucc, ltype := false, freq := s.freq.set c ((s.freq[c] &&& 0x3F0) ||| d.setWidth 10) }

/-- A write of the noise register reseeds the LFSR (R122, R124). -/
def writeNoise (s : Sn) (n : BitVec 3) : Sn := { s with noise := n, lfsr := 0x4000 }

/-- SN_LATCH_NOISE: data bit 3 is ignored (R122). -/
def latchNoise (s : Sn) (d : BitVec 4) : Sn :=
  { s.writeNoise (d.extractLsb' 0 3) with lch := 3, ltype := false }

/-- SN_LATCH_ATT (R123). -/
def latchAtt (s : Sn) (c : Fin 4) (d : BitVec 4) : Sn :=
  { s with lch := c, ltype := true, att := s.att.set c d }

/-- SN_DATA: the register the latch selects (R124). -/
def data (s : Sn) (d : BitVec 7) : Sn :=
  if s.ltype then { s with att := s.att.set s.lch (d.extractLsb' 0 4) }
  else if h : s.lch.val < 3 then
    { s with freq := s.freq.set s.lch.val (d.extractLsb' 0 6 ++ s.freq[s.lch.val].extractLsb' 0 4) }
  else s.writeNoise (d.extractLsb' 0 3)

/-- A counter after its optional decrement (R127). -/
def countDown (n : BitVec 10) : BitVec 10 := if n = 0 then 0 else n - 1

/-- One tick of tone channel `i`: at zero, reload, toggle the flip-flop, and take the volume or, in the low half, 0
(R127). -/
def tickTone (s : Sn) (i : Fin 3) : Sn :=
  let c := countDown s.cnt[i.val]
  if c = 0 then
    let ff := s.freqff ^^^ (1#4 <<< i.val)
    { s with
      cnt := s.cnt.set i.val s.freq[i]
      freqff := ff
      out := s.out.set i.val (if ff.getLsbD i then 0 else s.volume i.castSucc) }
  else { s with cnt := s.cnt.set i.val c }

/-- The noise counter's reload value (R127). -/
def noiseReload (s : Sn) : BitVec 10 := if s.nr = 3 then s.freq[2] else 0x10#10 <<< s.nr

/-- One tick of the noise channel: the output is taken before this tick's shift (R127, decision D23). -/
def tickNoise (s : Sn) : Sn :=
  let c := countDown s.cnt[3]
  let out := s.out.set 3 (if s.lfsr.getLsbD 0 then s.volume 3 else 0)
  if c = 0 then
    let ff := s.freqff ^^^ 0b1000
    { s with
      out := out
      cnt := s.cnt.set 3 s.noiseReload
      freqff := ff
      lfsr := if ff.getLsbD 3 then lfsrShift s.lfsr s.fb else s.lfsr }
  else { s with out := out, cnt := s.cnt.set 3 c }

/-- The channels of one tick, in order (R127). -/
def tickChannels (s : Sn) : Sn := (((s.tickTone 0).tickTone 1).tickTone 2).tickNoise

/-- The sample of a tick: the sum of the four outputs (R127). -/
def mixed (s : Sn) : Sample := BitVec.ofNat 16 (s.out[0].toNat + s.out[1].toNat + s.out[2].toNat + s.out[3].toNat)

/-- Append a sample and count it (R127). -/
def appendSample (s : Sn) (x : Sample) : Sn := { s with snbuf := s.snbuf ++ [x], psgsamps := s.psgsamps + 1 }

/-- SN_TICK() on a buffer with room (R127). -/
def tick (s : Sn) : Sn := s.tickChannels.appendSample s.tickChannels.mixed

end Sn

/-- SN_WR with a LATCH/DATA byte for tone channel `c` (R120, R121). -/
def snLatchTone (c : Fin 3) (d : BitVec 4) (s : State) : State := s.chargeSnWrite.setSn (s.sn.latchTone c d)

/-- SN_WR with a LATCH/DATA byte for the noise register (R120, R122). -/
def snLatchNoise (d : BitVec 4) (s : State) : State := s.chargeSnWrite.setSn (s.sn.latchNoise d)

/-- SN_WR with a LATCH/DATA byte for attenuator `c` (R120, R123). -/
def snLatchAtt (c : BitVec 2) (d : BitVec 4) (s : State) : State := s.chargeSnWrite.setSn (s.sn.latchAtt c.toFin d)

/-- SN_WR with a DATA byte (R120, R124). -/
def snData (d : BitVec 7) (s : State) : State := s.chargeSnWrite.setSn (s.sn.data d)

/-- SN_TICK(); a full buffer has no step (R127, decision D34). -/
def snTick (s : State) : Result State :=
  if s.sn.snbuf.length < s.cfg.psgBufCap then .next (s.setSn s.sn.tick) else .fault .psgBufferFull

/-- SN.LATCH.TONE, channel 0. -/
def execSnLatchTone0 (_port : Byte) (d : BitVec 4) (s : State) : Result State := .next (snLatchTone 0 d s)

/-- SN.LATCH.TONE, channel 1. -/
def execSnLatchTone1 (_port : Byte) (d : BitVec 4) (s : State) : Result State := .next (snLatchTone 1 d s)

/-- SN.LATCH.TONE, channel 2. -/
def execSnLatchTone2 (_port : Byte) (d : BitVec 4) (s : State) : Result State := .next (snLatchTone 2 d s)

/-- SN.LATCH.NOISE. -/
def execSnLatchNoise (_port : Byte) (d : BitVec 4) (s : State) : Result State := .next (snLatchNoise d s)

/-- SN.LATCH.ATT. -/
def execSnLatchAtt (_port : Byte) (c : BitVec 2) (d : BitVec 4) (s : State) : Result State := .next (snLatchAtt c d s)

/-- SN.DATA. -/
def execSnData (_port : Byte) (d : BitVec 7) (s : State) : Result State := .next (snData d s)

/-- SN.TICK. -/
def execSnTick (s : State) : Result State := snTick s

end Sys2Proof.Machine
end

