-- ==== Sys2Proof/Machine/VdpPorts.lean ====
section
/-! DEFINITION. The VDP port operations (spec/42_vdp_ports.md). Bits 4..1 of the port are ignored (R190). -/

namespace Sys2Proof.Machine

/-- VDP_CTRL1(v) (R191). -/
def vdpCtrl1 (v : Byte) (s : State) : State :=
  s.setVdp { s.vdp with
    dlatch := v
    vaddr := (s.vdp.vaddr &&& 0x3F00) ||| v.setWidth 14
    wlatch := true }

/-- VDP_READ_SETUP after the shared effect of R192 (R193). -/
def vdpReadSetup (a : BitVec 6) (s : State) : State := s.setVdp (s.vdp.assemble a).refill

/-- VDP_WRITE_SETUP: nothing beyond R192 (R194). -/
def vdpWriteSetup (a : BitVec 6) (s : State) : State := s.setVdp (s.vdp.assemble a)

/-- The register number of a second byte, its bits 2..0 (R195). -/
def regNumber (a : BitVec 6) : Fin 8 := (a.extractLsb' 0 3).toFin

/-- VDP.REG_FORM: register `a[2:0]` takes the first byte, held in dlatch (R195, R197). -/
def vdpRegForm (a : BitVec 6) (s : State) : State :=
  vdpRegWr (regNumber a) s.vdp.dlatch (s.setVdp (s.vdp.assemble a))

/-- VDP_C0(v), by the parameter CTRL_C0_ACTION (R196). -/
def vdpC0 (a : BitVec 6) (s : State) : State :=
  match s.cfg.c0Action with
  | .addressOnly => s.setVdp (s.vdp.assemble a)
  | .registerWrite => vdpRegWr (regNumber a) s.vdp.dlatch (s.setVdp (s.vdp.assemble a))

/-- VDP_DATA_WR(v), with the two parameters of its latches (R198). -/
def vdpDataWr (v : Byte) (s : State) : State :=
  s.setVdp { s.vdp.storeByte v with
    dlatch := if s.cfg.dataWrLoadsDlatch then v else s.vdp.dlatch
    wlatch := if s.cfg.dataWrClearsWlatch then false else s.vdp.wlatch }

/-- VDP_DATA_RD(): the old dlatch is returned, then dlatch is refilled (R199). -/
def vdpDataRd (port : Byte) (s : State) : State :=
  (s.setVdp { s.vdp.refill with wlatch := false }).giveRead port s.vdp.dlatch

/-- VDP_STATUS_RD(): the old status is returned, then INT, 5S, C and wlatch are cleared (R200). -/
def vdpStatusRd (port : Byte) (s : State) : State :=
  (s.setVdp { s.vdp with status := Status.afterRead s.vdp.status, wlatch := false }).giveRead port s.vdp.status

/-- VDP.CTRL1. -/
def execVdpCtrl1 (_port v : Byte) (s : State) : Result State := .next (vdpCtrl1 v s)

/-- VDP.READ_SETUP. -/
def execVdpReadSetup (_port : Byte) (a : BitVec 6) (s : State) : Result State := .next (vdpReadSetup a s)

/-- VDP.WRITE_SETUP. -/
def execVdpWriteSetup (_port : Byte) (a : BitVec 6) (s : State) : Result State := .next (vdpWriteSetup a s)

/-- VDP.REG_FORM. -/
def execVdpRegForm (_port : Byte) (a : BitVec 6) (s : State) : Result State := .next (vdpRegForm a s)

/-- VDP.C0. -/
def execVdpC0 (_port : Byte) (a : BitVec 6) (s : State) : Result State := .next (vdpC0 a s)

/-- VDP.DATA_WR. -/
def execVdpDataWr (_port v : Byte) (s : State) : Result State := .next (vdpDataWr v s)

/-- VDP.DATA_RD. -/
def execVdpDataRd (port : Byte) (s : State) : Result State := .next (vdpDataRd port s)

/-- VDP.STATUS_RD. -/
def execVdpStatusRd (port : Byte) (s : State) : Result State := .next (vdpStatusRd port s)

end Sys2Proof.Machine
end

