-- ==== Sys2Proof/Machine/Ports.lean ====
section
/-! DEFINITION. A bus operation of the CPU on the block (45_mixer_scheduler.md R294): decoded, then its effect. -/

namespace Sys2Proof.Machine

/-- The effect of a port operation; an internal operation has no port word, so none is decoded from one. -/
def portEffect (i : Instr) (s : State) : State :=
  match i with
  | .vdpCtrl1 _ v => vdpCtrl1 v s
  | .vdpReadSetup _ a => vdpReadSetup a s
  | .vdpWriteSetup _ a => vdpWriteSetup a s
  | .vdpRegForm _ a => vdpRegForm a s
  | .vdpC0 _ a => vdpC0 a s
  | .vdpDataWr _ v => vdpDataWr v s
  | .vdpDataRd port => vdpDataRd port s
  | .vdpStatusRd port => vdpStatusRd port s
  | .snLatchTone0 _ d => snLatchTone 0 d s
  | .snLatchTone1 _ d => snLatchTone 1 d s
  | .snLatchTone2 _ d => snLatchTone 2 d s
  | .snLatchNoise _ d => snLatchNoise d s
  | .snLatchAtt _ c d => snLatchAtt c d s
  | .snData _ d => snData d s
  | .ayAddr v => ayAddr v s
  | .ayWr v => ayWr v s
  | .ayWrTone r v => ayWrTone r v s
  | .ayWrNoise v => ayWrNoise v s
  | .ayWrMixer v => ayWrMixer v s
  | .ayWrAmp i v => ayWrAmp i v s
  | .ayWrEper i v => ayWrEper i v s
  | .ayWrShape v => ayWrShape v s
  | .ayWrIo i v => ayWrIo i v s
  | .ayRd => ayRd s
  | .frameExec => s
  | .vdpLine => s
  | .psgClock _ => s
  | .snTick => s
  | .ayTick => s
  | .mix => s
  | .resampleAndDeliver => s

/-- One bus operation; one on a port outside the block does not touch the block's state (R294, 20_memory.md R77). -/
def busOp (w : PortWord) (s : State) : State :=
  match decodeWord s.latches w with
  | .ok i => portEffect i s
  | .error _ => s

end Sys2Proof.Machine
end

