-- ==== Sys2Proof/Machine/VdpRender.lean ====
section
/-! DEFINITION. The background of one visible line (spec/43_vdp_render.md R224 to R232). A row is given by the colour of
each of its 272 columns; playfield column x is column x + 8. -/

namespace Sys2Proof.Machine

namespace Vdp

/-- The backdrop rule `COL(c)` (R225). -/
def col (v : Vdp) (c : Colour) : Colour := if c = 0 then v.bd else c

/-- `srow = line >> 3`, the character row (R226). -/
def srow (v : Vdp) : Nat := v.line >>> 3

/-- `prow = line & 7`, the pixel row in the character (R226). -/
def prow (v : Vdp) : Nat := v.line &&& 7

/-- The address of name `i` of a row of 32 (R227 to R229). -/
def nameAddr32 (v : Vdp) (i : Nat) : Nat := v.tblPname + v.srow * 32 + i

/-- The colour of one pixel from its pattern and colour bytes (R98, R227). -/
def patternPixel (v : Vdp) (pat colour : Byte) (b : Nat) : Colour :=
  v.col (if patternBit pat b then hiNibble colour else loNibble colour)

/-- Graphics 1: the address of the pattern byte of a name (R227). -/
def g1PatAddr (v : Vdp) (name : Byte) : Nat := v.tblPgen + name.toNat * 8 + v.prow

/-- Graphics 1: the address of the colour byte of a name (R227). -/
def g1ColAddr (v : Vdp) (name : Byte) : Nat := v.tblCol + (name.toNat >>> 3)

/-- G1_ROW at playfield column `x` (R227). -/
def g1Pixel (v : Vdp) (x : Nat) : Colour :=
  let name := v.vramAt (v.nameAddr32 (x / 8))
  v.patternPixel (v.vramAt (v.g1PatAddr name)) (v.vramAt (v.g1ColAddr name)) (x % 8)

/-- Graphics 2: the 10-bit index `((srow & 0x18) << 5) | name` (R228). -/
def g2Index (v : Vdp) (name : Byte) : Nat := ((v.srow &&& 0x18) <<< 5) ||| name.toNat

/-- Graphics 2: the address of the pattern byte of a name (R228). -/
def g2PatAddr (v : Vdp) (name : Byte) : Nat := v.g2OffsetPgen + (v.g2Index name &&& v.g2Pmask) * 8 + v.prow

/-- Graphics 2: the address of the colour byte of a name (R228). -/
def g2ColAddr (v : Vdp) (name : Byte) : Nat := v.g2OffsetCol + (v.g2Index name &&& v.g2Cmask) * 8 + v.prow

/-- G2_ROW at playfield column `x` (R228). -/
def g2Pixel (v : Vdp) (x : Nat) : Colour :=
  let name := v.vramAt (v.nameAddr32 (x / 8))
  v.patternPixel (v.vramAt (v.g2PatAddr name)) (v.vramAt (v.g2ColAddr name)) (x % 8)

/-- Multicolor: the address of the colour-pair byte of a name (R229). -/
def mcByteAddr (v : Vdp) (name : Byte) : Nat :=
  v.tblPgen + name.toNat * 8 + (v.srow &&& 3) * 2 + ((v.line >>> 2) &&& 1)

/-- MC_ROW at playfield column `x` (R229). -/
def mcPixel (v : Vdp) (x : Nat) : Colour :=
  let cb := v.vramAt (v.mcByteAddr (v.vramAt (v.nameAddr32 (x / 8))))
  v.col (if x % 8 < 4 then hiNibble cb else loNibble cb)

/-- Text: the address of name `i` of a row of 40 (R230). -/
def nameAddr40 (v : Vdp) (i : Nat) : Nat := v.tblPname + v.srow * 40 + i

/-- TEXT_ROW at text column `k`, 0..239: six pixels a cell (R230). -/
def textPixel (v : Vdp) (k : Nat) : Colour :=
  let pat := v.vramAt (v.g1PatAddr (v.vramAt (v.nameAddr40 (k / 6))))
  v.col (if patternBit pat (k % 6) then v.tfg else v.bd)

/-- A row whose 256 playfield columns are given and whose overscan columns are the backdrop (R226). -/
def overscanRow (v : Vdp) (pixel : Fin 256 → Colour) : Row :=
  Vector.ofFn fun c => if h : 8 ≤ c.val ∧ c.val < 264 then pixel ⟨c.val - 8, by omega⟩ else v.bd

/-- TEXT_ROW: 240 text pixels from TEXT_ORIGIN_X, every other column the backdrop (R230, decision D12). -/
def textRow (v : Vdp) (origin : Nat) : Row :=
  Vector.ofFn fun c => if origin ≤ c.val ∧ c.val < origin + 240 then v.textPixel (c.val - origin) else v.bd

/-- BG_LINE(line): the background row of the current line, the `draw`-th free row in an undocumented mode (R226, R231). -/
def bgRow (v : Vdp) (cfg : Setup) (draw : Nat) : Row :=
  match v.mode with
  | .text => v.textRow cfg.textOriginX
  | .graphics1 => v.overscanRow fun x => v.g1Pixel x
  | .graphics2 => v.overscanRow fun x => v.g2Pixel x
  | .multicolor => v.overscanRow fun x => v.mcPixel x
  | .undocumented => v.overscanRow (Config.undocModeBg draw)

/-- A row of backdrop: BLANK_LINE and the overscan bands (R223, R224). -/
def backdropRow (v : Vdp) : Row := .replicate 272 v.bd

end Vdp

end Sys2Proof.Machine
end

