-- ==== Sys2Proof/Machine/VdpSprites.lean ====
section
/-! DEFINITION. The sprite pass of one line (spec/44_vdp_sprites.md). -/

namespace Sys2Proof.Machine

/-- The line buffers and the status of a sprite pass in progress (10_state.md R34, 44_vdp_sprites.md R262). -/
structure SpriteBuf where
  linebuf : Vector Colour 256
  cbuf : Vector Bool 256
  status : Byte
  count : Nat
  deriving DecidableEq, Repr

/-- A sprite attribute entry (R261). -/
structure SpriteEntry where
  y : Byte
  x : Byte
  name : Byte
  colour : Byte
  deriving DecidableEq, Repr

namespace SpriteEntry

/-- EC, colour bit 7 (R261). -/
def ec (e : SpriteEntry) : Bool := e.colour.getLsbD 7

/-- X after the EC shift, -32..255 (R263). -/
def left (e : SpriteEntry) : Int := if e.ec then (e.x.toNat : Int) - 32 else e.x.toNat

/-- Y after the adjustment: above 224 is negative, then one more (R263). -/
def top (e : SpriteEntry) : Int := (if 224 < e.y.toNat then (e.y.toNat : Int) - 256 else e.y.toNat) + 1

/-- Y = 208 ends the table (R262). -/
def isEnd (e : SpriteEntry) : Bool := e.y == 208

/-- Vertical coverage of a line by a sprite of extent `ext` (R264). -/
def covers (e : SpriteEntry) (ext line : Nat) : Bool := decide (e.top ≤ line) && decide ((line : Int) < e.top + ext)

end SpriteEntry

namespace Vdp

/-- Entry `n` of the sprite attribute table (R261). -/
def spriteEntry (v : Vdp) (n : Nat) : SpriteEntry where
  y := v.vramAt (v.tblSattr + 4 * n)
  x := v.vramAt (v.tblSattr + 4 * n + 1)
  name := v.vramAt (v.tblSattr + 4 * n + 2)
  colour := v.vramAt (v.tblSattr + 4 * n + 3)

/-- The pattern number of a sprite: bits 1..0 are ignored for 16×16 (R266). -/
def spriteName (v : Vdp) (e : SpriteEntry) : Nat :=
  if v.spriteSize = 16 then (e.name &&& 0xFC).toNat else e.name.toNat

/-- The address of the pattern byte of sprite row `srow` and sprite column `sc` (R266). -/
def spritePatAddr (v : Vdp) (e : SpriteEntry) (srow sc : Nat) : Nat :=
  let addr := v.tblSpgen + v.spriteName e * 8 + srow
  if 8 ≤ sc then addr ||| 0x10 else addr

/-- `srow = (line - Y) >> mag` of a covering sprite (R266). -/
def spriteRow (v : Vdp) (e : SpriteEntry) : Nat := ((v.line : Int) - e.top).toNat >>> v.spriteMag

/-- The pattern bit of a covering sprite at screen column `p` from its left edge (R262). -/
def spriteBit (v : Vdp) (e : SpriteEntry) (p : Nat) : Bool :=
  let sc := p >>> v.spriteMag
  patternBit (v.vramAt (v.spritePatAddr e (v.spriteRow e) sc)) (sc &&& 7)

end Vdp

namespace SpriteBuf

/-- The buffers at the start of a pass (R262, decision D17). -/
def start (status : Byte) : SpriteBuf where
  linebuf := .replicate 256 0
  cbuf := .replicate 256 false
  status := status
  count := 0

/-- A set pattern bit at column `xp`: dropped off the line, a collision on an occupied column, else it takes the column
(R267, R269). -/
def mark (b : SpriteBuf) (colour : Colour) (xp : Int) : SpriteBuf :=
  if h : 0 ≤ xp ∧ xp ≤ 255 then
    if b.cbuf[xp.toNat]'(by omega) then { b with status := Status.setCollision b.status }
    else
      { b with
        linebuf := b.linebuf.set xp.toNat colour (by omega)
        cbuf := b.cbuf.set xp.toNat true (by omega) }
  else b

/-- Column `p` of a drawn sprite (R262). -/
def drawColumn (v : Vdp) (e : SpriteEntry) (b : SpriteBuf) (p : Nat) : SpriteBuf :=
  if v.spriteBit e p then b.mark (loNibble e.colour) (e.left + p) else b

/-- All `ext` columns of a drawn sprite, from the left (R262). -/
def draw (v : Vdp) (e : SpriteEntry) (b : SpriteBuf) : SpriteBuf :=
  (List.range v.spriteExt).foldl (drawColumn v e) b

/-- The walk over `k` entries from entry `n`: it ends at Y = 208, at the fifth covering sprite or after the last entry
(R262). -/
def walk (v : Vdp) : Nat → Nat → SpriteBuf → SpriteBuf
  | 0, _, b => b
  | k + 1, n, b =>
    let e := v.spriteEntry n
    if e.isEnd then b
    else
      let b := { b with status := Status.setFs b.status n }
      if !e.covers v.spriteExt v.line then walk v k (n + 1) b
      else if b.count + 1 = 5 then { b with status := Status.setFifth b.status, count := 5 }
      else walk v k (n + 1) (draw v e { b with count := b.count + 1 })

/-- The pass over the 32 entries (R262). -/
def pass (v : Vdp) : SpriteBuf := walk v 32 0 (start v.status)

/-- Compositing: non-zero columns over the background, never in the overscan (R268). -/
def composite (b : SpriteBuf) (background : Row) : Row :=
  Vector.ofFn fun c =>
    if h : 8 ≤ c.val ∧ c.val < 264 then
      if b.linebuf[c.val - 8] ≠ 0 then b.linebuf[c.val - 8] else background[c]
    else background[c]

end SpriteBuf

end Sys2Proof.Machine
end

