-- ==== Sys2Proof/Machine/VdpLine.lean ====
section
/-! DEFINITION. The line step (spec/43_vdp_render.md R221 to R223). -/

namespace Sys2Proof.Machine

/-- Whether the screen mode is one the source gives no background (R231). -/
def Vdp.isUndocumented (v : Vdp) : Bool := decide (v.mode = .undocumented)

/-- BG_LINE then, unless Text, SPRITE_LINE: the enabled visible line (R221, 44_vdp_sprites.md R262). -/
def Vdp.renderEnabled (v : Vdp) (cfg : Setup) (draw : Nat) : Vdp :=
  let background := v.bgRow cfg draw
  if v.mode = .text then v.paintRow background
  else
    let b := SpriteBuf.pass v
    { v.paintRow (b.composite background) with status := b.status }

/-- The painting part of a line step: a visible line is rendered or blanked, a later one paints nothing (R221, R224,
decision D18). -/
def renderLine (s : State) : State :=
  if s.vdp.line < Config.visibleLines then
    if s.vdp.bl then
      { s with
        vdp := s.vdp.renderEnabled s.cfg s.env.undocDraws
        env := { s.env with undocDraws := s.env.undocDraws + s.vdp.isUndocumented.toNat } }
    else s.setVdp (s.vdp.paintRow s.vdp.backdropRow)
  else s

/-- VBLANK() (R222). -/
def vblank (s : State) : State :=
  let v := { s.vdp with status := Status.setInt s.vdp.status }
  if s.vdp.vblankRaises then (s.setVdp v).raiseNmi .vblank else s.setVdp v

/-- WRAP(): line 0, and the bands, rows 0..7 and 200..207, take the backdrop (R223). -/
def wrap (s : State) : State :=
  s.setVdp { s.vdp with
    line := 0
    fb := Vector.ofFn fun r => if r.val < 8 ∨ 200 ≤ r.val then s.vdp.backdropRow else s.vdp.fb[r] }

/-- The step to the next line and what reaching it does (R221). -/
def advanceLine (s : State) : State :=
  let next := s.setVdp { s.vdp with line := s.vdp.line + 1 }
  let next := if s.vdp.line + 1 = Config.visibleLines then vblank next else next
  if s.vdp.line + 1 = s.numScanlines then wrap next else next

/-- VDP_LINE() (R221). -/
def vdpLine (s : State) : State := advanceLine (renderLine s)

/-- VDP.LINE. -/
def execVdpLine (s : State) : Result State := .next (vdpLine s)

end Sys2Proof.Machine
end

