-- ==== Sys2Proof/Machine/Scheduler.lean ====
section
/-! DEFINITION. The frame step, the PSG clock, the CPU step, the mixer and the resampler interface
(spec/45_mixer_scheduler.md). -/

namespace Sys2Proof.Machine

/-- `n` rounds of the PSG clock's loop: take 16 cycles off, tick the SN, tick the AY (R292). -/
def psgTicks : Nat → State → Result State
  | 0, s => .next s
  | n + 1, s =>
    andThen (snTick (s.setSched { s.sched with psgcycs := s.sched.psgcycs - Config.psgDivider })) fun s =>
      andThen (ayTick s) fun s => psgTicks n s

/-- PSG_CLOCK(c): the loop runs while psgcycs ≥ 16, that is `(psgcycs + c) / 16` times (R292). -/
def psgClock (c : Nat) (s : State) : Result State :=
  psgTicks ((s.sched.psgcycs + c) / Config.psgDivider) (s.setSched { s.sched with psgcycs := s.sched.psgcycs + c })

/-- A CPU step given as data, as a step of the oracle: its operations do not depend on what they return. -/
def CpuStep.prog : List PortWord → PNat → CpuProg
  | [], base => .done base
  | w :: ops, base => .bus w fun _ => prog ops base

/-- What the CPU oracle is told by these events, newest first (R299). -/
def cpuInputs (events : List Event) : List CpuInput := events.filterMap Event.cpuInput

/-- What the block gave the outside between two states, newest first. -/
def newEvents (s t : State) : List Event := t.env.events.take (t.env.events.length - s.env.events.length)

/-- The bus operations of a CPU step in their order, each one's return given back before the next, and the base cycle
count (R294, R299). -/
def runCpu : CpuProg → State → State × PNat
  | .done base, s => (s, base)
  | .bus w next, s =>
    let t := busOp w s
    runCpu (next (cpuInputs (newEvents s t))) t

/-- The next CPU step and what is left of the given ones: the first given step, else the opaque oracle's (R299). -/
def nextCpuStep (s : State) : CpuProg × List CpuStep :=
  match s.env.cpuSteps with
  | [] => (Config.cpuStep (cpuInputs s.env.events), [])
  | st :: rest => (CpuStep.prog st.ops st.base, rest)

/-- The start of a CPU step: `step_penalty = 0`, and a given step is taken (R293). -/
def beginCpuStep (s : State) : State :=
  (s.setSched { s.sched with stepPenalty := 0 }).setEnv { s.env with cpuSteps := (nextCpuStep s).2 }

/-- CPU_STEP() with `itercycs = base + step_penalty` (R293, R299). -/
def cpuStep (s : State) : State × Nat :=
  let r := runCpu (nextCpuStep s).1 (beginCpuStep s)
  (r.1.emit (.cpuStepDone r.2 r.1.sched.stepPenalty), r.2 + r.1.sched.stepPenalty)

/-- `while linecycs < reqcycs`: CPU steps, each followed by the PSG clock, at most `fuel` of them. A step takes at least
one cycle, so `reqcycs` steps always meet the budget (R290, decision D32). -/
def cpuSlice : Nat → Int → Int → State → Result (State × Int)
  | 0, _, linecycs, s => .next (s, linecycs)
  | fuel + 1, reqcycs, linecycs, s =>
    if linecycs < reqcycs then
      andThen (psgClock (cpuStep s).2 (cpuStep s).1) fun t => cpuSlice fuel reqcycs (linecycs + (cpuStep s).2) t
    else .next (s, linecycs)

/-- `reqcycs = 228 - extcycs` (R291). -/
def lineBudget (s : State) : Int := (Config.cyclesPerLine : Int) - s.sched.extcycs

/-- One scanline of the frame step: its CPU slice, the residual credit, its line step (R290). -/
def scanline (s : State) : Result State :=
  andThen (cpuSlice (lineBudget s).toNat (lineBudget s) 0 s) fun (t, linecycs) =>
    .next (vdpLine (t.setSched { t.sched with extcycs := (linecycs - lineBudget s).toNat }))

/-- `n` scanlines (R290). -/
def scanlines : Nat → State → Result State
  | 0, s => .next s
  | n + 1, s => andThen (scanline s) fun s => scanlines n s

/-- The start of a frame: both buffers emptied, both counts 0 (R298). -/
def clearBuffers (s : State) : State :=
  (s.setSn { s.sn with snbuf := [], psgsamps := 0 }).setAy { s.ay with aybuf := [], sgmpsgsamps := 0 }

/-- One mixed sample: exact up to 32767, else `OVERFLOW(s)` (R295). R295 has no sum below 0, the samples being non-negative; DESIGN
CHOICE (notes/assumptions/25.md): one below -32768 wraps modulo 65536. -/
def mixSample (o : MixOverflow) (sn ay : Sample) : Sample :=
  let x := sn.toInt + ay.toInt
  if x ≤ 32767 then BitVec.ofInt 16 x
  else match o with
    | .wrap => BitVec.ofInt 16 (x - 65536)
    | .saturate => BitVec.ofInt 16 32767

/-- The first `n` samples mixed in place (R295). R295 gives MIX a meaning only where both streams hold `n` samples; DESIGN CHOICE
(notes/assumptions/25.md): an SN sample that has no AY partner, or that lies past the first `n`, stays as it is, and an AY sample
that has no SN partner adds nothing. -/
def mixStreams (o : MixOverflow) : Nat → List Sample → List Sample → List Sample
  | n + 1, x :: sn, y :: ay => mixSample o x y :: mixStreams o n sn ay
  | 0, sn, _ => sn
  | _ + 1, [], _ => []
  | _ + 1, sn, [] => sn

/-- MIX() (R295). -/
def mix (s : State) : State :=
  s.setSn { s.sn with snbuf := mixStreams s.cfg.mixOverflow s.sn.psgsamps s.sn.snbuf s.ay.aybuf }

/-- The stream handed to the resampler, `snbuf[0..n-1]` (R296). -/
def mixedStream (s : State) : List Sample := s.sn.snbuf.take s.sn.psgsamps

/-- The resampler's answer for this frame (R296). -/
def resampled (s : State) : Resampled :=
  Config.resample s.sched.rs (mixedStream s) (Config.psgRateHz s.cfg.region) s.cfg.outRate s.cfg.quality

/-- RESAMPLE_AND_DELIVER() (R296). -/
def resampleAndDeliver (s : State) : State :=
  (s.setSched { s.sched with rs := mixedStream s :: s.sched.rs, outbuf := (resampled s).out }).emit
    (.audioReady (resampled s).count)

/-- FRAME_EXEC() (R290). -/
def frameExec (s : State) : Result State :=
  andThen (scanlines s.numScanlines (clearBuffers s)) fun t => .next (resampleAndDeliver (mix t))

/-- FRAME_EXEC. -/
def execFrameExec (s : State) : Result State := frameExec s

/-- PSG_CLOCK. -/
def execPsgClock (c : Nat) (s : State) : Result State := psgClock c s

/-- MIX. -/
def execMix (s : State) : Result State := .next (mix s)

/-- RESAMPLE_AND_DELIVER. -/
def execResampleAndDeliver (s : State) : Result State := .next (resampleAndDeliver s)

end Sys2Proof.Machine
end

