-- ==== Sys2Proof/Machine/Dispatch.lean ====
section
/-! DEFINITION. One arm per operation of spec/opcode_table.json, each a call of its meaning. -/

namespace Sys2Proof.Machine

def exec (i : Instr) (s : State) : Host.Outcome State Fault Refusal :=
  match i with
  | .vdpCtrl1 port v => Sys2Proof.Machine.execVdpCtrl1 port v s
  | .vdpReadSetup port a => Sys2Proof.Machine.execVdpReadSetup port a s
  | .vdpWriteSetup port a => Sys2Proof.Machine.execVdpWriteSetup port a s
  | .vdpRegForm port a => Sys2Proof.Machine.execVdpRegForm port a s
  | .vdpC0 port a => Sys2Proof.Machine.execVdpC0 port a s
  | .vdpDataWr port v => Sys2Proof.Machine.execVdpDataWr port v s
  | .vdpDataRd port => Sys2Proof.Machine.execVdpDataRd port s
  | .vdpStatusRd port => Sys2Proof.Machine.execVdpStatusRd port s
  | .snLatchTone0 port d => Sys2Proof.Machine.execSnLatchTone0 port d s
  | .snLatchTone1 port d => Sys2Proof.Machine.execSnLatchTone1 port d s
  | .snLatchTone2 port d => Sys2Proof.Machine.execSnLatchTone2 port d s
  | .snLatchNoise port d => Sys2Proof.Machine.execSnLatchNoise port d s
  | .snLatchAtt port c d => Sys2Proof.Machine.execSnLatchAtt port c d s
  | .snData port d => Sys2Proof.Machine.execSnData port d s
  | .ayAddr v => Sys2Proof.Machine.execAyAddr v s
  | .ayWr v => Sys2Proof.Machine.execAyWr v s
  | .ayWrTone r v => Sys2Proof.Machine.execAyWrTone r v s
  | .ayWrNoise v => Sys2Proof.Machine.execAyWrNoise v s
  | .ayWrMixer v => Sys2Proof.Machine.execAyWrMixer v s
  | .ayWrAmp k v => Sys2Proof.Machine.execAyWrAmp k v s
  | .ayWrEper k v => Sys2Proof.Machine.execAyWrEper k v s
  | .ayWrShape v => Sys2Proof.Machine.execAyWrShape v s
  | .ayWrIo k v => Sys2Proof.Machine.execAyWrIo k v s
  | .ayRd => Sys2Proof.Machine.execAyRd s
  | .frameExec => Sys2Proof.Machine.execFrameExec s
  | .vdpLine => Sys2Proof.Machine.execVdpLine s
  | .psgClock c => Sys2Proof.Machine.execPsgClock c s
  | .snTick => Sys2Proof.Machine.execSnTick s
  | .ayTick => Sys2Proof.Machine.execAyTick s
  | .mix => Sys2Proof.Machine.execMix s
  | .resampleAndDeliver => Sys2Proof.Machine.execResampleAndDeliver s

end Sys2Proof.Machine
end

