-- ==== Sys2Proof/Machine/Fetch.lean ====
section
/-! DEFINITION. Where a step takes its next operation from (00_scope.md R12, notes/assumptions/2.md): the head of the
stream, and with an empty stream the host's call of FRAME_EXEC, the block's only entry point
(45_mixer_scheduler.md R290). -/

namespace Sys2Proof.Machine

/-- What the next step does, with the state in which it does it. -/
inductive Fetched where
  /-- Run this operation. -/
  | run (i : Instr) (s : State)
  /-- A bus operation on a port outside the block: nothing of the block changes (45_mixer_scheduler.md R294). -/
  | outside (s : State)
  /-- A system reset (70_reset_and_hazards.md R341). -/
  | reset (s : State)
  deriving DecidableEq, Repr

/-- Take the head off the stream. -/
def State.dropIssue (s : State) (rest : List Issue) : State := s.setEnv { s.env with stream := rest }

/-- The next operation. -/
def fetch (s : State) : Fetched :=
  match s.env.stream with
  | [] => .run .frameExec s
  | .word w :: rest =>
    match decodeWord s.latches w with
    | .ok i => .run i (s.dropIssue rest)
    | .error _ => .outside (s.dropIssue rest)
  | .op k :: rest => .run k.instr (s.dropIssue rest)
  | .systemReset :: rest => .reset (s.dropIssue rest)

/-- The state in which a port word is the next operation: at the head of the stream, and, for a VDP control write, with
wlatch as the word's row of the opcode table has it (30_encoding.md R91, notes/assumptions/4.md). -/
def placeWord (s : State) (w : PortWord) : State :=
  let t := s.setEnv { s.env with stream := .word w :: s.env.stream }
  if w.isControlWrite then t.setVdp { s.vdp with wlatch := tableWlatch w } else t

end Sys2Proof.Machine
end

