-- ==== Sys2Proof/Machine/SystemReset.lean ====
section
/-! DEFINITION. A system reset (70_reset_and_hazards.md R341), a host call between frame steps. -/

namespace Sys2Proof.Machine

/-- A system reset's effect on the block, by the parameter RESET_EFFECT: the block is initialised as at power-on with new
draws, or left unchanged. The parameters, and what the machine was given and has given, are not the block's and stay. -/
def resetBlock (s : State) : State :=
  match s.cfg.resetEffect with
  | .reinit => State.powerOn (Config.powerOnDraws s.env.resets) s.cfg { s.env with resets := s.env.resets + 1 }
  | .unchanged => s

/-- A system reset: the block's effect, and under either the CPU resets, which the oracle is told
(notes/assumptions/13.md). -/
def systemReset (s : State) : State := (resetBlock s).emit .cpuReset

end Sys2Proof.Machine
end

