-- ==== Sys2Proof/Machine/Step.lean ====
section
/-! DEFINITION. One step of the machine: fetch the next operation and run it. -/

namespace Sys2Proof.Machine

/-- One step: the next operation of the stream, or with an empty stream one frame. -/
def step (s : State) : Host.Outcome State Fault Refusal :=
  match fetch s with
  | .run i t => exec i t
  | .outside t => .next t
  | .reset t => .next (systemReset t)

/-- `s` with the port word whose bits are `w` placed where the next step fetches it. -/
def State.withFetchWord (s : State) (nbits w : Nat) : State := placeWord s (BitVec.ofNat 17 (w % 2 ^ nbits))

end Sys2Proof.Machine
end

