-- ==== Sys2Proof/Machine/Output.lean ====
section
/-! DEFINITION. The output frame the frontend receives (43_vdp_render.md R233, 20_memory.md R73): a function of the frame
buffer. -/

namespace Sys2Proof.Machine

/-- PALETTE: 0xFF alpha, entries 0 and 1 opaque black, the others the variant's (decision D20). -/
def paletteEntry (variant : PaletteVariant) (c : Colour) : BitVec 32 :=
  if c = 0 ∨ c = 1 then 0xFF000000 else 0xFF#8 ++ Config.paletteRgb variant c

/-- The pixel at row `r` and column `c`. -/
def outputPixel (s : State) (r : Fin 208) (c : Fin 272) : BitVec 32 := paletteEntry s.cfg.palette s.vdp.fb[r][c]

/-- A pixel's four bytes: little-endian, so B, G, R, 0xFF (20_memory.md R73). -/
def pixelBytes (p : BitVec 32) : List Byte :=
  [p.extractLsb' 0 8, p.extractLsb' 8 8, p.extractLsb' 16 8, p.extractLsb' 24 8]

/-- The frame as the frontend receives it: row-major (R233). -/
def outputBytes (s : State) : List Byte :=
  (List.finRange 208).flatMap fun r => (List.finRange 272).flatMap fun c => pixelBytes (outputPixel s r c)

end Sys2Proof.Machine
end

