-- ==== Sys2Proof/Safety.lean ====
section
/-! DEFINITION. What counts as a safe state and a safe step, in the terms the claims use, and the frames: what an operation
leaves unchanged. -/

namespace Sys2Proof.Machine

/-- A bit outside its mask reads as 0 in every VDP register (10_state.md R25). -/
def Vdp.RegsMasked (v : Vdp) : Prop := ∀ r : Fin 8, v.reg[r] &&& vdpMask[r] = v.reg[r]

/-- A bit outside its mask reads as 0 in every AY register (10_state.md R44). -/
def Ay.RegsMasked (a : Ay) : Prop := ∀ r : Fin 16, a.reg[r] &&& ayMask[r] = a.reg[r]

/-- Every channel output is 0 or an entry of the SN volume table (10_state.md R40). -/
def Sn.OutLegal (c : Sn) : Prop := ∀ i : Fin 4, c.out[i] = 0 ∨ ∃ k : Fin 16, c.out[i] = vtSn[k]

/-- The ranges of the AY counters: the power-on draws' and those any tick leaves (10_state.md R47 to R49, decision D27). -/
def Ay.CountersInRange (a : Ay) : Prop := (∀ i : Fin 3, a.tcnt[i] ≤ 4095) ∧ a.ncnt ≤ 63 ∧ a.ecnt ≤ 131071

/-- The invariant of the machine. -/
structure State.Inv (s : State) : Prop where
  /-- VRAM keeps its canonical form. -/
  vram : s.vdp.vram.wf = true
  /-- The VDP registers stay within their masks (R25). -/
  vdpRegs : s.vdp.RegsMasked
  /-- The current line is one of the frame's (R31). -/
  line : s.vdp.line < s.numScanlines
  /-- The SN outputs are volumes (R40). -/
  out : s.sn.OutLegal
  /-- The SN sample count is its buffer's length (R53). -/
  psgsamps : s.sn.psgsamps = s.sn.snbuf.length
  /-- The AY registers stay within their masks (R44). -/
  ayRegs : s.ay.RegsMasked
  /-- The AY counters stay in range (R47 to R49). -/
  counters : s.ay.CountersInRange
  /-- The AY sample count is its buffer's length (R53). -/
  sgmpsgsamps : s.ay.sgmpsgsamps = s.ay.aybuf.length
  /-- The PSG clock accumulator is 0..15 between steps (R52). -/
  psgcycs : s.sched.psgcycs < 16

/-- A step that neither faults nor is refused. -/
def SafeStep (s : State) : Prop := ∃ t, step s = .next t

/-- Everything but the VDP is as before. -/
def OnlyVdp (s t : State) : Prop := t.sn = s.sn ∧ t.ay = s.ay ∧ t.sched = s.sched ∧ t.cfg = s.cfg ∧ t.env = s.env

/-- Everything but the SN is as before. -/
def OnlySn (s t : State) : Prop := t.vdp = s.vdp ∧ t.ay = s.ay ∧ t.sched = s.sched ∧ t.cfg = s.cfg ∧ t.env = s.env

/-- Everything but the AY is as before. -/
def OnlyAy (s t : State) : Prop := t.vdp = s.vdp ∧ t.sn = s.sn ∧ t.sched = s.sched ∧ t.cfg = s.cfg ∧ t.env = s.env

/-- Everything of the VDP but its address register and its two latches is as before; every byte of VRAM reads as before. -/
def OnlyAddressing (v w : Vdp) : Prop :=
  (∀ a, w.vram.read a = v.vram.read a) ∧ w.reg = v.reg ∧ w.status = v.status ∧ w.line = v.line ∧ w.fb = v.fb

/-- Everything outside the SN is as after an SN write: the step penalty has grown by the write's charge, nothing else has
changed (40_sn76489.md R120). -/
def OnlySnWrite (s t : State) : Prop :=
  t.vdp = s.vdp ∧ t.ay = s.ay ∧ t.cfg = s.cfg ∧ t.env = s.env ∧
  t.sched = { s.sched with stepPenalty := s.sched.stepPenalty + 48 }

/-- What an SN write leaves of the SN unchanged: the counters, the outputs, the flip-flops and the samples
(40_sn76489.md R121 to R124). -/
def SnGeneratorsKept (c d : Sn) : Prop :=
  d.cnt = c.cnt ∧ d.out = c.out ∧ d.freqff = c.freqff ∧ d.snbuf = c.snbuf ∧ d.psgsamps = c.psgsamps

/-- What an AY register write other than of the shape leaves of the AY unchanged: all but the one register
(41_ay8910.md R151). -/
def OnlyAyRegister (a b : Ay) (r : Fin 16) : Prop :=
  (∀ q : Fin 16, q ≠ r → b.reg[q] = a.reg[q]) ∧
  b = { a with reg := b.reg }

/-- The pixel at row `r` and column `c` of the frame buffer. -/
def Vdp.pixel (v : Vdp) (r c : Nat) : Colour := if h : r < 208 ∧ c < 272 then (v.fb[r]'h.1)[c]'h.2 else 0

/-- A pixel of a line with sprites composited over its background (44_vdp_sprites.md R268). -/
def overBackground (sprite background : Colour) : Colour := if sprite = 0 then background else sprite

/-- A colour as the frame buffer takes it: index 0 is the backdrop, R7 bits 3..0 (43_vdp_render.md R225). -/
def shownColour (v : Vdp) (c : Colour) : Colour := if c = 0 then v.reg[7].extractLsb' 0 4 else c

/-- Byte `k` of sprite attribute entry `n`: Y, X, name, colour (44_vdp_sprites.md R261). -/
def spriteByte (v : Vdp) (n k : Nat) : Byte := v.vram.read (v.reg[5].toNat * 128 + 4 * n + k)

/-- The width and height of a sprite's pattern: 16 or 8, by R1 bit 1 (44_vdp_sprites.md R260). -/
def spriteSide (v : Vdp) : Nat := if v.reg[1].getLsbD 1 then 16 else 8

/-- The screen pixels of one pattern pixel in each direction: 2 or 1, by R1 bit 0 (44_vdp_sprites.md R260). -/
def spriteZoom (v : Vdp) : Nat := if v.reg[1].getLsbD 0 then 2 else 1

/-- The column of a sprite's left edge: X, less 32 where colour bit 7 is set (44_vdp_sprites.md R263). -/
def spriteX (v : Vdp) (n : Nat) : Int :=
  (spriteByte v n 1).toNat - (if (spriteByte v n 3).getLsbD 7 then 32 else 0)

/-- The line of a sprite's top row: Y, less 256 where it is above 224, plus 1 (44_vdp_sprites.md R263). -/
def spriteY (v : Vdp) (n : Nat) : Int :=
  (spriteByte v n 0).toNat - (if 224 < (spriteByte v n 0).toNat then 256 else 0) + 1

/-- The number of sprite entries before the end of the table: the first entry with Y = 208, or 32 (44_vdp_sprites.md
R262). -/
def spriteTableLength (v : Vdp) : Nat := ((List.range 32).find? fun n => decide (spriteByte v n 0 = 208)).getD 32

/-- The sprite entries that cover the current line, in their order (44_vdp_sprites.md R264). -/
def coveringSprites (v : Vdp) : List Nat :=
  (List.range (spriteTableLength v)).filter fun n =>
    decide (spriteY v n ≤ v.line ∧ (v.line : Int) < spriteY v n + (spriteSide v * spriteZoom v : Nat))

/-- The sprites drawn on the current line: the first four that cover it (44_vdp_sprites.md R265). -/
def drawnSprites (v : Vdp) : List Nat := (coveringSprites v).take 4

/-- The pattern byte of column `sc` of sprite `n` on the current line (44_vdp_sprites.md R266): of a 16×16 sprite the name's
bits 1..0 are ignored, and its right half lies at address bit 4. -/
def spritePattern (v : Vdp) (n sc : Nat) : Byte :=
  let name := if spriteSide v = 16 then (spriteByte v n 2).toNat / 4 * 4 else (spriteByte v n 2).toNat
  let addr := v.reg[6].toNat * 2048 + name * 8 + ((v.line : Int) - spriteY v n).toNat / spriteZoom v
  v.vram.read (if 8 ≤ sc then addr ||| 0x10 else addr)

/-- Whether sprite `n` has a set pattern bit at playfield column `x` of the current line: bit 7 is the leftmost
(44_vdp_sprites.md R262, R269). -/
def spriteHits (v : Vdp) (n x : Nat) : Bool :=
  (List.range (spriteSide v * spriteZoom v)).any fun p =>
    (spritePattern v n (p / spriteZoom v)).getLsbD (7 - p / spriteZoom v % 8) && decide (spriteX v n + p = x)

/-- Whether the current line runs a sprite pass: visible, enabled and not in Text mode (43_vdp_render.md R221). -/
def runsSpritePass (v : Vdp) : Bool := decide (v.line < 192) && v.reg[1].getLsbD 6 && decide (v.modeNumber ≠ 1)

/-- The cycles that the CPU steps among these events reported (45_mixer_scheduler.md R293). -/
def reportedCycles (events : List Event) : Nat :=
  (events.map fun
    | .cpuStepDone base penalty => base + penalty
    | .readReturned _ _ => 0
    | .nmi _ => 0
    | .audioReady _ => 0
    | .cpuReset => 0).sum

/-- The value evol has after `k` envelope steps since a write of shape `S`: the table of 41_ay8910.md R165. A segment
falls 15, 15, 14, …, 1 or rises 0, 0, 1, …, 14. -/
def envelopeTable (S k : Nat) : Nat :=
  let fall := if k % 16 = 0 then 15 else 16 - k % 16
  let rise := k % 16 - 1
  let first := if S / 4 % 2 = 1 then rise else fall
  if k < 16 then first
  else if S = 8 then fall
  else if S = 12 then rise
  else if S = 10 then (if k / 16 % 2 = 0 then fall else rise)
  else if S = 14 then (if k / 16 % 2 = 0 then rise else fall)
  else if S = 11 ∨ S = 13 then 15
  else 0

/-- Whether a bus operation is an SN write: a write to a port of the 0xE0 band (40_sn76489.md R120). -/
def isSnWrite (w : PortWord) : Bool := w.isWrite && decide (w.port &&& 0xE0 = 0xE0)

end Sys2Proof.Machine
end

