-- ==== Sys2Proof/Certificates/Slice0/Obligations.lean ====
section
/-! DEFINITION. The statements about the model. `exec … = .next t` says that the operation completes. -/

open Sys2Proof Sys2Proof.Machine

/-! ## Encoding and fetch -/

/-- The port words of V-E1 to V-E10 (95_test_vectors.md §2.1) decode as it says, and 0x1BF7F and 0x1BF81 after a first control
byte as the second bytes of R91's forms 01 and 10. The 17-bit word is the spec's own decision D1
(30_encoding.md R90, notes/assumptions/3.md), form 01 as a write setup its decision D5 (notes/assumptions/16.md). -/
def Obligations.SpecWordsDecode : Prop :=
  decodeWord ⟨false, none⟩ 0x1BF05 = .ok (.vdpCtrl1 0xBF 0x05) ∧ decodeWord ⟨false, none⟩ 0x1A105 = .ok (.vdpCtrl1 0xA1 0x05) ∧
  decodeWord ⟨true, none⟩ 0x1BF7F = .ok (.vdpWriteSetup 0xBF 0x3F) ∧ decodeWord ⟨true, none⟩ 0x1BF81 = .ok (.vdpRegForm 0xBF 0x01) ∧
  decodeWord ⟨false, none⟩ 0x1BE05 = .ok (.vdpDataWr 0xBE 0x05) ∧ decodeWord ⟨false, none⟩ 0x1A005 = .ok (.vdpDataWr 0xA0 0x05) ∧
  decodeWord ⟨false, none⟩ 0x0BF00 = .ok (.vdpStatusRd 0xBF) ∧ decodeWord ⟨false, none⟩ 0x0A300 = .ok (.vdpStatusRd 0xA3) ∧
  decodeWord ⟨false, none⟩ 0x0BE00 = .ok (.vdpDataRd 0xBE) ∧
  decodeWord ⟨false, none⟩ 0x1E090 = .ok (.snLatchAtt 0xE0 0 0) ∧ decodeWord ⟨false, none⟩ 0x1FF90 = .ok (.snLatchAtt 0xFF 0 0) ∧
  decodeWord ⟨false, none⟩ 0x0FF00 = .error (.outsideBlock false 0xFF) ∧
  decodeWord ⟨false, none⟩ 0x15007 = .ok (.ayAddr 0x07) ∧ decodeWord ⟨false, none⟩ 0x151FF = .ok (.ayWr 0xFF) ∧
  decodeWord ⟨false, none⟩ 0x05200 = .ok .ayRd ∧
  decodeWord ⟨false, none⟩ 0x05000 = .error (.outsideBlock false 0x50) ∧
  decodeWord ⟨false, none⟩ 0x15200 = .error (.outsideBlock true 0x52) ∧
  ∀ (l : Latches) (x : Byte),
    decodeWord l (0x1C0#9 ++ x) = .error (.outsideBlock true 0xC0) ∧ decodeWord l (0x180#9 ++ x) = .error (.outsideBlock true 0x80) ∧
    decodeWord l (0x17F#9 ++ x) = .error (.outsideBlock true 0x7F) ∧ decodeWord l (0x153#9 ++ x) = .error (.outsideBlock true 0x53)

/-- For every well-formed port operation, decoding its word under its row's latches gives it back. Rests on the spec's own
decisions D1, D5, D6 (notes/assumptions/3.md and 16.md). -/
def Obligations.DecodeOfEncodeIsIdentity : Prop :=
  ∀ (i : Instr) (w : PortWord), i.wellFormed = true → encode i = some w → decodeWord i.latches w = .ok i

/-- Every word that decodes is the word of what it decodes to, a well-formed operation; of a read the data bits are ignored and
written as 0 (R90). Rests on the spec's own decisions D1, D5, D6 (notes/assumptions/3.md and 16.md). -/
def Obligations.DecodedWordIsTheEncoding : Prop :=
  ∀ (l : Latches) (w : PortWord) (i : Instr), decodeWord l w = .ok i →
    i.wellFormed = true ∧ encode i = some (if w.isWrite then w else readWord w.port)

/-- One step takes the head of the stream and runs it: a decoded word and an internal operation through exec, a word on a
port outside the block without any effect (R294), a system reset; with an empty stream it runs one frame. The model's choice
of what a step is (notes/assumptions/2.md). -/
def Obligations.StepRunsTheNextOperation : Prop :=
  ∀ (s : State) (rest : List Issue),
    (∀ w i, s.env.stream = .word w :: rest → decodeWord ⟨s.vdp.wlatch, none⟩ w = .ok i →
      step s = exec i { s with env := { s.env with stream := rest } }) ∧
    (∀ w e, s.env.stream = .word w :: rest → decodeWord ⟨s.vdp.wlatch, none⟩ w = .error e →
      step s = .next { s with env := { s.env with stream := rest } }) ∧
    (∀ k, s.env.stream = .op k :: rest → step s = exec k.instr { s with env := { s.env with stream := rest } }) ∧
    (s.env.stream = .systemReset :: rest → step s = .next (systemReset { s with env := { s.env with stream := rest } })) ∧
    (s.env.stream = [] → step s = exec .frameExec s)

/-- A word placed with withFetchWord that decodes is what the very next step runs, in a state that differs from `s` in wlatch
at most. The model's own interface (notes/assumptions/2.md and 4.md). -/
def Obligations.PlacedWordRunsNext : Prop :=
  ∀ (s : State) (nbits w : Nat) (i : Instr), decodeTableWord nbits w = some i →
    ∃ b : Bool, step (s.withFetchWord nbits w) = exec i { s with vdp := { s.vdp with wlatch := b } } ∧
      ((∀ port v, i ≠ .vdpCtrl1 port v) → (∀ port a, i ≠ .vdpReadSetup port a ∧ i ≠ .vdpWriteSetup port a ∧
        i ≠ .vdpRegForm port a ∧ i ≠ .vdpC0 port a) → b = s.vdp.wlatch)

/-! ## VDP ports -/

/-- R191: the first control byte goes to dlatch and vaddr[7:0], wlatch is set; nothing else changes. Rests on the spec's own
decision D4 (notes/assumptions/16.md). -/
def Obligations.FirstControlByteLatches : Prop :=
  ∀ (port v : Byte) (s : State), ∃ t, exec (.vdpCtrl1 port v) s = .next t ∧
    t.vdp.dlatch = v ∧ t.vdp.vaddr = s.vdp.vaddr.extractLsb' 8 6 ++ v ∧ t.vdp.wlatch = true ∧
    OnlyAddressing s.vdp t.vdp ∧ OnlyVdp s t

/-- R193: a read setup fetches the byte at the assembled address and leaves vaddr one past it modulo 0x4000. That the second byte
assembles all 14 bits (R192) rests on the spec's own decision D4 (notes/assumptions/16.md). -/
def Obligations.ReadSetupPrefetches : Prop :=
  ∀ (port : Byte) (a : BitVec 6) (s : State), ∃ t, exec (.vdpReadSetup port a) s = .next t ∧
    t.vdp.dlatch = s.vdp.vram.read (a ++ s.vdp.dlatch).toNat ∧
    t.vdp.vaddr.toNat = ((a ++ s.vdp.dlatch).toNat + 1) % 0x4000 ∧ t.vdp.wlatch = false ∧
    OnlyAddressing s.vdp t.vdp ∧ OnlyVdp s t

/-- R194: a write setup sets the address and clears wlatch, nothing more; dlatch keeps the first byte. Rests on the spec's own
decisions D4, D5 (notes/assumptions/16.md). -/
def Obligations.WriteSetupOnlyAddresses : Prop :=
  ∀ (port : Byte) (a : BitVec 6) (s : State), ∃ t, exec (.vdpWriteSetup port a) s = .next t ∧
    t.vdp.vaddr = a ++ s.vdp.dlatch ∧ t.vdp.wlatch = false ∧ t.vdp.dlatch = s.vdp.dlatch ∧
    OnlyAddressing s.vdp t.vdp ∧ OnlyVdp s t

/-- R195 and R197: register a[2:0] takes the first byte through its mask, the other registers keep their values, and exactly one
NMI is raised, when r = 1, GINT goes from 0 to 1 and INT is set. That vaddr is assembled too (R192) rests on the spec's own decision
D4 (notes/assumptions/16.md). -/
def Obligations.RegisterFormWritesAndRaises : Prop :=
  vdpMask = #v[0x03, 0xFB, 0x0F, 0xFF, 0x07, 0x7F, 0x07, 0xFF] ∧
  ∀ (port : Byte) (a : BitVec 6) (s : State) (r : Fin 8), r.val = a.toNat % 8 →
    ∃ t, exec (.vdpRegForm port a) s = .next t ∧
      t.vdp.reg[r] = s.vdp.dlatch &&& vdpMask[r] ∧ (∀ q : Fin 8, q ≠ r → t.vdp.reg[q] = s.vdp.reg[q]) ∧
      t.vdp.vaddr = a ++ s.vdp.dlatch ∧ t.vdp.wlatch = false ∧
      t.env.events = (if r = 1 ∧ s.vdp.reg[1].getLsbD 5 = false ∧ s.vdp.dlatch.getLsbD 5 = true ∧ s.vdp.status.getLsbD 7 = true
        then [.nmi .regWrite] else []) ++ s.env.events ∧
      t.vdp.vram = s.vdp.vram ∧ t.vdp.dlatch = s.vdp.dlatch ∧ t.vdp.status = s.vdp.status ∧ t.vdp.line = s.vdp.line ∧
      t.vdp.fb = s.vdp.fb ∧ t.sn = s.sn ∧ t.ay = s.ay ∧ t.sched = s.sched ∧ t.cfg = s.cfg ∧
      t.env = { s.env with events := t.env.events }

/-- R196: form 11 is the write setup's effect under address_only and the register form's under register_write. Rests on the
spec's own decisions D4, D6 (notes/assumptions/16.md). -/
def Obligations.FormC0FollowsItsParameter : Prop :=
  ∀ (port : Byte) (a : BitVec 6) (s : State),
    (s.cfg.c0Action = .addressOnly → exec (.vdpC0 port a) s =
      .next { s with vdp := { s.vdp with vaddr := a ++ s.vdp.dlatch, wlatch := false } }) ∧
    (s.cfg.c0Action = .registerWrite → ∃ t, exec (.vdpC0 port a) s = .next t ∧ exec (.vdpRegForm port a) s = .next t)

/-- R198: a data write stores the byte at vaddr and advances vaddr modulo 0x4000; dlatch and wlatch follow the two
parameters; every other byte of VRAM reads as before. Rests on the spec's own decisions D7, D8, D9 (notes/assumptions/16.md).
-/
def Obligations.DataWriteStoresAndAdvances : Prop :=
  ∀ (port x : Byte) (s : State), s.vdp.vram.wf = true → ∃ t, exec (.vdpDataWr port x) s = .next t ∧
    t.vdp.vram.read s.vdp.vaddr.toNat = x ∧
    (∀ a, a ≠ s.vdp.vaddr.toNat → t.vdp.vram.read a = s.vdp.vram.read a) ∧
    t.vdp.vaddr.toNat = (s.vdp.vaddr.toNat + 1) % 0x4000 ∧
    t.vdp.dlatch = (if s.cfg.dataWrLoadsDlatch then x else s.vdp.dlatch) ∧
    t.vdp.wlatch = (if s.cfg.dataWrClearsWlatch then false else s.vdp.wlatch) ∧
    t.vdp.reg = s.vdp.reg ∧ t.vdp.status = s.vdp.status ∧ t.vdp.line = s.vdp.line ∧ t.vdp.fb = s.vdp.fb ∧ OnlyVdp s t

/-- R199: a data read returns the old dlatch, refills it from vaddr, advances vaddr modulo 0x4000 and clears wlatch. -/
def Obligations.DataReadIsOneBehind : Prop :=
  ∀ (port : Byte) (s : State), ∃ t, exec (.vdpDataRd port) s = .next t ∧
    t.env = { s.env with events := .readReturned port s.vdp.dlatch :: s.env.events } ∧
    t.vdp.dlatch = s.vdp.vram.read s.vdp.vaddr.toNat ∧ t.vdp.vaddr.toNat = (s.vdp.vaddr.toNat + 1) % 0x4000 ∧
    t.vdp.wlatch = false ∧ OnlyAddressing s.vdp t.vdp ∧
    t.sn = s.sn ∧ t.ay = s.ay ∧ t.sched = s.sched ∧ t.cfg = s.cfg

/-- R200: a status read returns the old status, clears INT, 5S and C, keeps FS, and clears wlatch. -/
def Obligations.StatusReadAcknowledges : Prop :=
  ∀ (port : Byte) (s : State), ∃ t, exec (.vdpStatusRd port) s = .next t ∧
    t.env = { s.env with events := .readReturned port s.vdp.status :: s.env.events } ∧
    t.vdp = { s.vdp with status := t.vdp.status, wlatch := false } ∧
    (∀ b, t.vdp.status.getLsbD b = (decide (b < 5) && s.vdp.status.getLsbD b)) ∧
    t.sn = s.sn ∧ t.ay = s.ay ∧ t.sched = s.sched ∧ t.cfg = s.cfg

/-- A byte written through `VDP_SETW a` is the byte read back through `VDP_SETR a`, whatever the parameters: each of the six
bus operations completes and the last one gives the CPU the byte (30_encoding.md R101, R345). Rests on the spec's own
decisions D4, D5, D7 (notes/assumptions/16.md). -/
def Obligations.VramWriteReadsBack : Prop :=
  ∀ (s : State) (lo x : Byte) (hi : BitVec 6), s.vdp.vram.wf = true →
    ∃ t, andThen (exec (.vdpCtrl1 0xBF lo) s) (fun s => andThen (exec (.vdpWriteSetup 0xBF hi) s) fun s =>
        andThen (exec (.vdpDataWr 0xBE x) s) fun s => andThen (exec (.vdpCtrl1 0xBF lo) s) fun s =>
        andThen (exec (.vdpReadSetup 0xBF hi) s) fun s => exec (.vdpDataRd 0xBE) s) = .next t ∧
      t.env.events = .readReturned 0xBE x :: s.env.events

/-! ## SN76489 -/

/-- R121: a tone LATCH byte latches its channel and replaces period bits 3..0; the other periods, the generators and
everything else are kept, but for the 48-cycle charge (R120). Rests on the spec's own decision D25 (notes/assumptions/17.md).
-/
def Obligations.ToneLatchWritesLowBits : Prop :=
  ∀ (port : Byte) (d : BitVec 4) (s : State) (i : Instr) (c : Fin 3),
    (i, c) ∈ [(Instr.snLatchTone0 port d, (0 : Fin 3)), (.snLatchTone1 port d, 1), (.snLatchTone2 port d, 2)] →
    ∃ t, exec i s = .next t ∧ t.sn.lch.val = c.val ∧ t.sn.ltype = false ∧
      t.sn.freq[c] = s.sn.freq[c].extractLsb' 4 6 ++ d ∧ (∀ q : Fin 3, q ≠ c → t.sn.freq[q] = s.sn.freq[q]) ∧
      t.sn.att = s.sn.att ∧ t.sn.noise = s.sn.noise ∧ t.sn.lfsr = s.sn.lfsr ∧ SnGeneratorsKept s.sn t.sn ∧ OnlySnWrite s t

/-- R122: a noise LATCH byte sets the noise register from its low three bits and reseeds the LFSR. Which bits it takes rests on the
spec's own decision D25 (notes/assumptions/17.md). -/
def Obligations.NoiseLatchReseeds : Prop :=
  ∀ (port : Byte) (d : BitVec 4) (s : State), ∃ t, exec (.snLatchNoise port d) s = .next t ∧
    t.sn.lch = 3 ∧ t.sn.ltype = false ∧ t.sn.noise.toNat = d.toNat % 8 ∧ t.sn.lfsr = 0x4000 ∧
    t.sn.freq = s.sn.freq ∧ t.sn.att = s.sn.att ∧ SnGeneratorsKept s.sn t.sn ∧ OnlySnWrite s t

/-- R123: an attenuator LATCH byte latches and sets attenuator c. Which bits it takes rests on the spec's own decision D25
(notes/assumptions/17.md). -/
def Obligations.AttenuatorLatchSetsVolume : Prop :=
  ∀ (port : Byte) (c : BitVec 2) (d : BitVec 4) (s : State), ∃ t, exec (.snLatchAtt port c d) s = .next t ∧
    t.sn.lch.val = c.toNat ∧ t.sn.ltype = true ∧ t.sn.att[c.toNat] = d ∧
    (∀ q : Fin 4, q.val ≠ c.toNat → t.sn.att[q] = s.sn.att[q]) ∧
    t.sn.freq = s.sn.freq ∧ t.sn.noise = s.sn.noise ∧ t.sn.lfsr = s.sn.lfsr ∧ SnGeneratorsKept s.sn t.sn ∧ OnlySnWrite s t

/-- R124: a DATA byte writes the latched register: period bits 9..4 from its low six bits, the noise register with a reseed,
or the attenuator; the latch is kept. Rests on the spec's own decision D25 (notes/assumptions/17.md). -/
def Obligations.DataByteWritesLatchedRegister : Prop :=
  ∀ (port : Byte) (d : BitVec 7) (s : State), ∃ t, exec (.snData port d) s = .next t ∧
    t.sn.lch = s.sn.lch ∧ t.sn.ltype = s.sn.ltype ∧
    (∀ q : Fin 3, t.sn.freq[q] = if s.sn.ltype = false ∧ q.val = s.sn.lch.val
      then d.extractLsb' 0 6 ++ s.sn.freq[q].extractLsb' 0 4 else s.sn.freq[q]) ∧
    (∀ q : Fin 4, t.sn.att[q] = if s.sn.ltype = true ∧ q = s.sn.lch then d.extractLsb' 0 4 else s.sn.att[q]) ∧
    t.sn.noise = (if s.sn.ltype = false ∧ s.sn.lch = 3 then d.extractLsb' 0 3 else s.sn.noise) ∧
    t.sn.lfsr = (if s.sn.ltype = false ∧ s.sn.lch = 3 then 0x4000 else s.sn.lfsr) ∧
    SnGeneratorsKept s.sn t.sn ∧ OnlySnWrite s t

/-- R127: a tick with room in the buffer. Each tone channel counts down and, at zero, reloads, toggles and takes its volume or
0; the noise output is the LFSR's bit 0 before the shift; the noise counter reloads from freq[2] or 0x10 << NR and the LFSR
shifts on the toggle to 1; the sample is the sum of the outputs. No register changes. With a full buffer there is no step. Rests
on the spec's own decisions D22, D23, D24, D33, D34 (notes/assumptions/12.md, 17.md and 21.md). -/
def Obligations.SnTickRunsTheChannels : Prop :=
  vtSn = #v[0x1FFF, 0x196B, 0x1431, 0x100A, 0x0CBD, 0x0A1F, 0x080A, 0x066A,
    0x0512, 0x0407, 0x0333, 0x028B, 0x0205, 0x019B, 0x0146, 0x0000] ∧
  ∀ s : State,
    (s.cfg.psgBufCap ≤ s.sn.snbuf.length → exec .snTick s = .fault .psgBufferFull) ∧
    (s.sn.snbuf.length < s.cfg.psgBufCap → ∃ t, exec .snTick s = .next t ∧ OnlySn s t ∧ t.sn = s.sn.tick ∧
      t.sn.lch = s.sn.lch ∧ t.sn.ltype = s.sn.ltype ∧ t.sn.att = s.sn.att ∧ t.sn.freq = s.sn.freq ∧ t.sn.noise = s.sn.noise ∧
      (∀ (i : Fin 4) (j : Fin 3), i.val = j.val →
        (s.sn.cnt[i].toNat ≤ 1 → t.sn.cnt[i] = s.sn.freq[j] ∧ t.sn.freqff.getLsbD i = !s.sn.freqff.getLsbD i ∧
          t.sn.out[i] = if s.sn.freqff.getLsbD i then vtSn[s.sn.att[i].toNat] else 0) ∧
        (1 < s.sn.cnt[i].toNat → t.sn.cnt[i].toNat = s.sn.cnt[i].toNat - 1 ∧
          t.sn.freqff.getLsbD i = s.sn.freqff.getLsbD i ∧ t.sn.out[i] = s.sn.out[i])) ∧
      t.sn.out[3] = (if s.sn.lfsr.getLsbD 0 then vtSn[s.sn.att[3].toNat] else 0) ∧
      (s.sn.cnt[3].toNat ≤ 1 →
        t.sn.cnt[3].toNat = (if s.sn.noise.toNat % 4 = 3 then s.sn.freq[2].toNat else 16 * 2 ^ (s.sn.noise.toNat % 4)) ∧
        t.sn.freqff.getLsbD 3 = !s.sn.freqff.getLsbD 3 ∧
        t.sn.lfsr = if s.sn.freqff.getLsbD 3 then s.sn.lfsr else lfsrShift s.sn.lfsr (s.sn.noise.getLsbD 2)) ∧
      (1 < s.sn.cnt[3].toNat → t.sn.cnt[3].toNat = s.sn.cnt[3].toNat - 1 ∧
        t.sn.freqff.getLsbD 3 = s.sn.freqff.getLsbD 3 ∧ t.sn.lfsr = s.sn.lfsr) ∧
      t.sn.snbuf = s.sn.snbuf ++
        [BitVec.ofNat 16 (t.sn.out[0].toNat + t.sn.out[1].toNat + t.sn.out[2].toNat + t.sn.out[3].toNat)] ∧
      t.sn.psgsamps = s.sn.psgsamps + 1)

/-- R126: the shift moves every bit one place down and puts at bit 14 the parity of bits 1..0 (white) or the old bit 0
(periodic). Rests on the spec's own decision D24 (notes/assumptions/17.md). -/
def Obligations.NoiseShiftFeedsBackBit14 : Prop :=
  ∀ (l : BitVec 15) (fb : Bool),
    (∀ b, b < 14 → (lfsrShift l fb).getLsbD b = l.getLsbD (b + 1)) ∧
    (lfsrShift l fb).getLsbD 14 = if fb then l.getLsbD 0 ^^ l.getLsbD 1 else l.getLsbD 0

/-- In periodic mode fifteen shifts give the register back, from every content (40_sn76489.md R128). Rests on the spec's own
decision D24 (notes/assumptions/17.md). -/
def Obligations.PeriodicNoiseHasPeriod15 : Prop :=
  ∀ l : BitVec 15, (fun l => lfsrShift l false)^[15] l = l

/-- R128's tone period: right after a reload, a tone channel of period p toggles for the first time on tick max(p, 1), and is
then right after a reload again. Rests on the spec's own decision D22 (notes/assumptions/17.md). -/
def Obligations.ToneTogglesEveryPeriod : Prop :=
  ∀ (c : Sn) (i : Fin 4) (j : Fin 3), i.val = j.val → c.cnt[i] = c.freq[j] →
    (∀ k, k < max c.freq[j].toNat 1 → (Sn.tick^[k] c).freqff.getLsbD i = c.freqff.getLsbD i) ∧
    (Sn.tick^[max c.freq[j].toNat 1] c).freqff.getLsbD i = !c.freqff.getLsbD i ∧
    (Sn.tick^[max c.freq[j].toNat 1] c).cnt[i] = c.freq[j]

/-- R129: with outputs that are 0 or volumes, a tick's sample is the exact sum and at most 0x7FFC, and the outputs stay such. -/
def Obligations.SnSampleNeverSaturates : Prop :=
  ∀ c : Sn, c.OutLegal → c.tick.OutLegal ∧ c.tick.snbuf = c.snbuf ++ [c.tick.mixed] ∧
    c.tick.mixed.toNat = c.tick.out[0].toNat + c.tick.out[1].toNat + c.tick.out[2].toNat + c.tick.out[3].toNat ∧
    c.tick.mixed.toNat ≤ 0x7FFC ∧ 0 ≤ c.tick.mixed.toInt

/-! ## AY-3-8910 -/

/-- R150: register select takes the low four bits and does nothing else. -/
def Obligations.AySelectLatchesIndex : Prop :=
  ∀ (v : Byte) (s : State), ∃ t, exec (.ayAddr v) s = .next t ∧ t.ay.ayidx.toNat = v.toNat % 16 ∧
    t.ay = { s.ay with ayidx := t.ay.ayidx } ∧ OnlyAy s t

/-- AY.WR stores the masked byte in the selected register and keeps the other fifteen; unless that register is the shape it changes
nothing else. -/
def Obligations.AyWriteStoresMasked : Prop :=
  ayMask = #v[0xFF, 0x0F, 0xFF, 0x0F, 0xFF, 0x0F, 0x1F, 0xFF, 0x1F, 0x1F, 0x1F, 0xFF, 0xFF, 0x0F, 0xFF, 0xFF] ∧
  ∀ (v : Byte) (s : State) (r : Fin 16), r.val = s.ay.ayidx.toNat → ∃ t, exec (.ayWr v) s = .next t ∧
    t.ay.reg[r] = v &&& ayMask[r] ∧ (∀ q : Fin 16, q ≠ r → t.ay.reg[q] = s.ay.reg[q]) ∧
    (r ≠ 13 → t.ay = { s.ay with reg := t.ay.reg }) ∧ OnlyAy s t

/-- R151's dispatch: AY.WR completes, and does what its row for the selected register does. -/
def Obligations.AyWriteIsItsRefinedRow : Prop :=
  ∀ (v : Byte) (s : State), ∃ t, exec (.ayWr v) s = .next t ∧ exec (refineAyWr s.ay.ayidx v) s = .next t

/-- The rows of registers 0 to 12, 14 and 15 store the masked byte and change nothing else (R152 to R156, R158). Rests on the
spec's own decisions D10, D42 (notes/assumptions/18.md). -/
def Obligations.AyPlainRowsOnlyStore : Prop :=
  ∀ (v : Byte) (s : State) (i : Instr) (r : Fin 16),
    ((∃ k : Fin 6, i = .ayWrTone k v ∧ r.val = k.val) ∨ (i = .ayWrNoise v ∧ r = 6) ∨ (i = .ayWrMixer v ∧ r = 7) ∨
      (∃ k : Fin 3, i = .ayWrAmp k v ∧ r.val = 8 + k.val) ∨ (∃ k : Fin 2, i = .ayWrEper k v ∧ r.val = 11 + k.val) ∨
      (∃ k : Fin 2, i = .ayWrIo k v ∧ r.val = 14 + k.val)) →
    ∃ t, exec i s = .next t ∧ t.ay.reg[r] = v &&& ayMask[r] ∧ OnlyAyRegister s.ay t.ay r ∧ OnlyAy s t

/-- R157: a write of the shape register restarts the envelope, whatever it held. -/
def Obligations.AyShapeRestartsEnvelope : Prop :=
  ∀ (v : Byte) (s : State), ∃ t, exec (.ayWrShape v) s = .next t ∧
    t.ay.reg[13].toNat = v.toNat % 16 ∧ (∀ q : Fin 16, q ≠ 13 → t.ay.reg[q] = s.ay.reg[q]) ∧
    t.ay.ecnt = 0 ∧ t.ay.eseg = false ∧ t.ay.estep = 0 ∧ t.ay.evol = (if v.getLsbD 2 then 0 else 15) ∧
    t.ay.ayidx = s.ay.ayidx ∧ t.ay.tcnt = s.ay.tcnt ∧ t.ay.sign = s.ay.sign ∧ t.ay.ncnt = s.ay.ncnt ∧
    t.ay.nshift = s.ay.nshift ∧ t.ay.aybuf = s.ay.aybuf ∧ t.ay.sgmpsgsamps = s.ay.sgmpsgsamps ∧ OnlyAy s t

/-- R159: an AY read returns the selected register as stored and has no side effect. Rests on the spec's own decision D28
(notes/assumptions/18.md). -/
def Obligations.AyReadHasNoSideEffect : Prop :=
  ∀ (s : State) (r : Fin 16), r.val = s.ay.ayidx.toNat →
    exec .ayRd s = .next { s with env := { s.env with events := .readReturned 0x52 s.ay.reg[r] :: s.env.events } }

/-- R161: a tick with room in the buffer. Each counter counts up and, on reaching its period, restarts: a tone toggles its sign,
the noise register takes its 17-bit shift, the envelope steps. The periods are those of R152, R153 and R156: low byte plus 256
times high byte, a period 0 of a tone or the noise taken as 1, the envelope's not. The sample is the mix of R164 after these
updates. No register changes. With a full buffer there is no step. Where a move of the envelope would leave evol's range, which
only power-on draws lead to, envStep's value is the model's own choice (notes/assumptions/24.md). Rests on the spec's own
decisions D10, D26, D33, D34 (notes/assumptions/12.md, 18.md and 21.md). -/
def Obligations.AyTickRunsTheGenerators : Prop :=
  ∀ (s : State) (tperiod : Fin 3 → Nat) (nperiod eperiod : Nat),
    (∀ i : Fin 3, tperiod i = max 1 (s.ay.reg[2 * i.val].toNat + 256 * s.ay.reg[2 * i.val + 1].toNat)) →
    nperiod = max 1 s.ay.reg[6].toNat → eperiod = s.ay.reg[11].toNat + 256 * s.ay.reg[12].toNat →
    (s.cfg.psgBufCap ≤ s.ay.aybuf.length → exec .ayTick s = .fault .psgBufferFull) ∧
    (s.ay.aybuf.length < s.cfg.psgBufCap → ∃ t, exec .ayTick s = .next t ∧ OnlyAy s t ∧ t.ay = s.ay.tick ∧
      t.ay.reg = s.ay.reg ∧ t.ay.ayidx = s.ay.ayidx ∧
      (∀ i : Fin 3,
        (tperiod i ≤ s.ay.tcnt[i] + 1 → t.ay.tcnt[i] = 0 ∧ t.ay.sign[i] = !s.ay.sign[i]) ∧
        (s.ay.tcnt[i] + 1 < tperiod i → t.ay.tcnt[i] = s.ay.tcnt[i] + 1 ∧ t.ay.sign[i] = s.ay.sign[i])) ∧
      (2 * nperiod ≤ s.ay.ncnt + 1 → t.ay.ncnt = 0 ∧
        t.ay.nshift = (s.ay.nshift >>> 1) ||| (((s.ay.nshift ^^^ (s.ay.nshift >>> 3)) &&& 1) <<< 16)) ∧
      (s.ay.ncnt + 1 < 2 * nperiod → t.ay.ncnt = s.ay.ncnt + 1 ∧ t.ay.nshift = s.ay.nshift) ∧
      (2 * eperiod ≤ s.ay.ecnt + 1 → t.ay.ecnt = 0 ∧ t.ay.evol = s.ay.envStep.evol ∧ t.ay.estep = s.ay.envStep.estep ∧
        t.ay.eseg = s.ay.envStep.eseg) ∧
      (s.ay.ecnt + 1 < 2 * eperiod → t.ay.ecnt = s.ay.ecnt + 1 ∧ t.ay.evol = s.ay.evol ∧ t.ay.estep = s.ay.estep ∧
        t.ay.eseg = s.ay.eseg) ∧
      t.ay.aybuf = s.ay.aybuf ++ [t.ay.mixed] ∧ t.ay.sgmpsgsamps = s.ay.sgmpsgsamps + 1)

/-- R164: the mix is the exact sum, over the channels whose gate is open, of the envelope's or the amplitude's volume; it is at most
12288 and never negative. -/
def Obligations.AyMixIsGatedSum : Prop :=
  vtAy = #v[0, 40, 60, 86, 124, 186, 264, 440, 518, 840, 1196, 1526, 2016, 2602, 3300, 4096] ∧
  ∀ a : Ay, a.mixed.toNat = ((List.finRange 3).map fun i : Fin 3 =>
      if ((a.reg[7].getLsbD i || a.sign[i]) && (a.reg[7].getLsbD (3 + i.val) || a.nshift.getLsbD 0)) = true then
        if a.reg[8 + i.val].getLsbD 4 then vtAy[a.evol.toNat] else vtAy[a.reg[8 + i.val].toNat % 16] else 0).sum ∧
    a.mixed.toNat ≤ 12288 ∧ 0 ≤ a.mixed.toInt

/-- The envelope shapes: after a write of any shape and any number of envelope steps, evol is the entry of R165's table. -/
def Obligations.EnvelopeFollowsItsTable : Prop :=
  ∀ (v : Byte) (s t : State) (k : Nat), exec (.ayWrShape v) s = .next t →
    (Ay.envStep^[k] t.ay).evol.toNat = envelopeTable (v.toNat % 16) k

/-! ## The PSG clock, the mixer and the resampler -/

/-- R292: the PSG clock runs floor((psgcycs + c) / 16) pairs of ticks, leaves the remainder, and changes nothing else; it
completes when both buffers have room for that many samples. Rests on the spec's own decisions D31, D33, D44
(notes/assumptions/21.md). -/
def Obligations.PsgClockTicksEverySixteen : Prop :=
  ∀ (c : Nat) (s : State),
    s.sn.snbuf.length + (s.sched.psgcycs + c) / 16 ≤ s.cfg.psgBufCap →
    s.ay.aybuf.length + (s.sched.psgcycs + c) / 16 ≤ s.cfg.psgBufCap →
    exec (.psgClock c) s = .next { s with
      sn := Sn.tick^[(s.sched.psgcycs + c) / 16] s.sn
      ay := Ay.tick^[(s.sched.psgcycs + c) / 16] s.ay
      sched := { s.sched with psgcycs := (s.sched.psgcycs + c) % 16 } }

/-- R295: on two streams of n non-negative samples each, MIX replaces sample k of the SN stream by the sum, exact up to 32767
and by the parameter above; the AY stream and everything else are kept. Rests on the spec's own decision D29
(notes/assumptions/7.md). -/
def Obligations.MixSumsTheStreams : Prop :=
  ∀ s : State, s.sn.snbuf.length = s.sn.psgsamps → s.ay.aybuf.length = s.sn.psgsamps →
    (∀ x ∈ s.sn.snbuf, 0 ≤ x.toInt) → (∀ x ∈ s.ay.aybuf, 0 ≤ x.toInt) →
    ∃ t, exec .mix s = .next t ∧ t.sn = { s.sn with snbuf := t.sn.snbuf } ∧ OnlySn s t ∧ t.sn.snbuf.length = s.sn.psgsamps ∧
      ∀ (k : Nat) (x y : Sample), s.sn.snbuf[k]? = some x → s.ay.aybuf[k]? = some y →
        ∃ z, t.sn.snbuf[k]? = some z ∧
          z.toInt = if x.toInt + y.toInt ≤ 32767 then x.toInt + y.toInt
            else if s.cfg.mixOverflow = .wrap then x.toInt + y.toInt - 65536 else 32767

/-- R296: the mixed stream goes to the resampler with the rates and the quality, its answer is the output buffer, and the
callback is called once with its count; nothing else changes. The resampler's own state is held as the streams it has
consumed. Where psgsamps exceeds the length of snbuf, which State.Inv rules out, what is handed on is the model's own choice
(notes/assumptions/25.md). Rests on the spec's own decision D30 (notes/assumptions/9.md). -/
def Obligations.DeliveryCallsBackOnce : Prop :=
  ∀ s : State, ∃ t, exec .resampleAndDeliver s = .next t ∧
    (∃ y : Resampled, y = Config.resample s.sched.rs (s.sn.snbuf.take s.sn.psgsamps) (Config.psgRateHz s.cfg.region) s.cfg.outRate
        s.cfg.quality ∧
      t.sched = { s.sched with outbuf := y.out, rs := s.sn.snbuf.take s.sn.psgsamps :: s.sched.rs } ∧
      t.env = { s.env with events := .audioReady y.count :: s.env.events }) ∧
    t.vdp = s.vdp ∧ t.sn = s.sn ∧ t.ay = s.ay ∧ t.cfg = s.cfg

/-! ## The line step -/

/-- R221: a line step completes, moves to the next line or wraps, changes no register, latch, address or byte of VRAM, and
paints no row but its own line's and, at the wrap, the bands. Rests on the spec's own decision D18 (notes/assumptions/19.md).
-/
def Obligations.LineStepAdvances : Prop :=
  ∀ s : State, s.numScanlines = (if s.cfg.region = .ntsc then 262 else 313) ∧ ∃ t, exec .vdpLine s = .next t ∧
    t.vdp.line = (if s.vdp.line + 1 = s.numScanlines then 0 else s.vdp.line + 1) ∧
    t.vdp.vram = s.vdp.vram ∧ t.vdp.reg = s.vdp.reg ∧ t.vdp.vaddr = s.vdp.vaddr ∧ t.vdp.dlatch = s.vdp.dlatch ∧
    t.vdp.wlatch = s.vdp.wlatch ∧ t.sn = s.sn ∧ t.ay = s.ay ∧ t.sched = s.sched ∧ t.cfg = s.cfg ∧
    t.env = { s.env with events := t.env.events, undocDraws := t.env.undocDraws } ∧
    (∀ r c, s.vdp.line + 1 ≠ s.numScanlines → (s.vdp.line < 192 → r ≠ s.vdp.line + 8) → t.vdp.pixel r c = s.vdp.pixel r c)

/-- R222: the step that reaches line 192 sets INT, and raises one NMI exactly when GINT is set and INT was clear; no other line step
changes INT or raises one. -/
def Obligations.VblankSetsIntAndRaises : Prop :=
  ∀ s : State, ∃ t, exec .vdpLine s = .next t ∧
    t.vdp.status.getLsbD 7 = (decide (s.vdp.line = 191) || s.vdp.status.getLsbD 7) ∧
    t.env.events = (if s.vdp.line = 191 ∧ s.vdp.reg[1].getLsbD 5 = true ∧ s.vdp.status.getLsbD 7 = false
      then [.nmi .vblank] else []) ++ s.env.events

/-- R223: the step that reaches NUM_SCANLINES goes to line 0 and paints rows 0..7 and 200..207 with the backdrop, and no other row.
Rests on the spec's own reading of the bands' width, 'The bands span the full 272 columns, which this spec takes as "8 px overscan
all sides"' (43_vdp_render.md R223, notes/assumptions/19.md). -/
def Obligations.WrapPaintsTheBands : Prop :=
  ∀ s : State, s.vdp.line + 1 = s.numScanlines → ∃ t, exec .vdpLine s = .next t ∧ t.vdp.line = 0 ∧
    ∀ r c, r < 208 → c < 272 → t.vdp.pixel r c =
      if r < 8 ∨ 200 ≤ r then s.vdp.reg[7].extractLsb' 0 4 else s.vdp.pixel r c

/-- R224: a visible line with BL = 0 is backdrop in all 272 columns, and no sprite status bit changes. Rests on the spec's
own decision D19 (notes/assumptions/19.md). -/
def Obligations.BlankLineIsBackdrop : Prop :=
  ∀ s : State, s.vdp.line < 192 → s.vdp.reg[1].getLsbD 6 = false → ∃ t, exec .vdpLine s = .next t ∧
    (∀ c, c < 272 → t.vdp.pixel (s.vdp.line + 8) c = s.vdp.reg[7].extractLsb' 0 4) ∧
    t.vdp.status &&& 0x7F = s.vdp.status &&& 0x7F

/-- R94: the screen mode number is R1[3] ++ R0[1] ++ R1[4]. -/
def Obligations.ModeNumberIsThreeBits : Prop :=
  ∀ v : Vdp, v.modeNumber.toNat = 4 * (v.reg[1].getLsbD 3).toNat + 2 * (v.reg[0].getLsbD 1).toNat + (v.reg[1].getLsbD 4).toNat

/-- R227 with R225, R226 and R268: a Graphics 1 line. The 16 overscan columns are the backdrop; playfield pixel x is the sprite
buffer's where that is non-zero, else the tile's. Rests on the spec's own decisions D10, D13 (notes/assumptions/19.md). -/
def Obligations.Graphics1Line : Prop :=
  ∀ s : State, s.vdp.line < 192 → s.vdp.reg[1].getLsbD 6 = true → s.vdp.modeNumber = 0 → ∃ t, exec .vdpLine s = .next t ∧
    (∀ c, c < 8 ∨ (264 ≤ c ∧ c < 272) → t.vdp.pixel (s.vdp.line + 8) c = s.vdp.reg[7].extractLsb' 0 4) ∧
    ∀ (x : Fin 256) (name pat colour : Byte),
      name = s.vdp.vram.read (s.vdp.reg[2].toNat * 1024 + s.vdp.line / 8 * 32 + x.val / 8) →
      pat = s.vdp.vram.read (s.vdp.reg[4].toNat * 2048 + name.toNat * 8 + s.vdp.line % 8) →
      colour = s.vdp.vram.read (s.vdp.reg[3].toNat * 64 + name.toNat / 8) →
      t.vdp.pixel (s.vdp.line + 8) (x.val + 8) = overBackground (SpriteBuf.pass s.vdp).linebuf[x]
        (shownColour s.vdp (if pat.getLsbD (7 - x.val % 8) then colour.extractLsb' 4 4 else colour.extractLsb' 0 4))

/-- R228 with R225, R226 and R268: a Graphics 2 line. Rests on the spec's own decisions D10, D13, D15 (notes/assumptions/19.md).
-/
def Obligations.Graphics2Line : Prop :=
  ∀ s : State, s.vdp.line < 192 → s.vdp.reg[1].getLsbD 6 = true → s.vdp.modeNumber = 2 → ∃ t, exec .vdpLine s = .next t ∧
    (∀ c, c < 8 ∨ (264 ≤ c ∧ c < 272) → t.vdp.pixel (s.vdp.line + 8) c = s.vdp.reg[7].extractLsb' 0 4) ∧
    ∀ (x : Fin 256) (name pat colour : Byte) (idx : Nat),
      name = s.vdp.vram.read (s.vdp.reg[2].toNat * 1024 + s.vdp.line / 8 * 32 + x.val / 8) →
      idx = s.vdp.line / 64 * 256 + name.toNat →
      pat = s.vdp.vram.read ((if s.vdp.reg[4].getLsbD 2 then 0x2000 else 0) +
        (idx &&& (s.vdp.reg[4].toNat % 4 * 256 + 255)) * 8 + s.vdp.line % 8) →
      colour = s.vdp.vram.read ((if s.vdp.reg[3].getLsbD 7 then 0x2000 else 0) +
        (idx &&& (s.vdp.reg[3].toNat % 128 * 8 + 7)) * 8 + s.vdp.line % 8) →
      t.vdp.pixel (s.vdp.line + 8) (x.val + 8) = overBackground (SpriteBuf.pass s.vdp).linebuf[x]
        (shownColour s.vdp (if pat.getLsbD (7 - x.val % 8) then colour.extractLsb' 4 4 else colour.extractLsb' 0 4))

/-- R229 with R225, R226 and R268: a Multicolor line. Rests on the spec's own decisions D10, D14 (notes/assumptions/19.md). -/
def Obligations.MulticolorLine : Prop :=
  ∀ s : State, s.vdp.line < 192 → s.vdp.reg[1].getLsbD 6 = true → s.vdp.modeNumber = 4 → ∃ t, exec .vdpLine s = .next t ∧
    (∀ c, c < 8 ∨ (264 ≤ c ∧ c < 272) → t.vdp.pixel (s.vdp.line + 8) c = s.vdp.reg[7].extractLsb' 0 4) ∧
    ∀ (x : Fin 256) (name cb : Byte),
      name = s.vdp.vram.read (s.vdp.reg[2].toNat * 1024 + s.vdp.line / 8 * 32 + x.val / 8) →
      cb = s.vdp.vram.read (s.vdp.reg[4].toNat * 2048 + name.toNat * 8 + s.vdp.line / 8 % 4 * 2 + s.vdp.line / 4 % 2) →
      t.vdp.pixel (s.vdp.line + 8) (x.val + 8) = overBackground (SpriteBuf.pass s.vdp).linebuf[x]
        (shownColour s.vdp (if x.val % 8 < 4 then cb.extractLsb' 4 4 else cb.extractLsb' 0 4))

/-- R230: a Text line. Cell i's six pixels start at TEXT_ORIGIN_X + 6i, foreground TFG and background BD; every other column is
BD; no sprite pass runs. Rests on the spec's own decisions D10, D12, D13 (notes/assumptions/19.md). -/
def Obligations.TextLine : Prop :=
  ∀ s : State, s.vdp.line < 192 → s.vdp.reg[1].getLsbD 6 = true → s.vdp.modeNumber = 1 → ∃ t, exec .vdpLine s = .next t ∧
    (∀ c, c < 272 → c < s.cfg.textOriginX.val ∨ s.cfg.textOriginX.val + 240 ≤ c → t.vdp.pixel (s.vdp.line + 8) c = s.vdp.reg[7].extractLsb' 0 4) ∧
    (∀ (i b : Nat) (name pat : Byte), i < 40 → b < 6 →
      name = s.vdp.vram.read (s.vdp.reg[2].toNat * 1024 + s.vdp.line / 8 * 40 + i) →
      pat = s.vdp.vram.read (s.vdp.reg[4].toNat * 2048 + name.toNat * 8 + s.vdp.line % 8) →
      t.vdp.pixel (s.vdp.line + 8) (s.cfg.textOriginX.val + i * 6 + b) =
        shownColour s.vdp (if pat.getLsbD (7 - b) then s.vdp.reg[7].extractLsb' 4 4 else s.vdp.reg[7].extractLsb' 0 4)) ∧
    t.vdp.status &&& 0x7F = s.vdp.status &&& 0x7F

/-- R231: a line in screen mode 3, 5, 6 or 7 completes; its overscan is the backdrop and its sprites are drawn; each background
pixel is a free value, and the next such line draws afresh. Rests on the spec's own decision D11 (notes/assumptions/10.md and
19.md). -/
def Obligations.UndocumentedModeLine : Prop :=
  ∀ s : State, s.vdp.line < 192 → s.vdp.reg[1].getLsbD 6 = true →
    s.vdp.modeNumber = 3 ∨ s.vdp.modeNumber = 5 ∨ s.vdp.modeNumber = 6 ∨ s.vdp.modeNumber = 7 →
    ∃ t, exec .vdpLine s = .next t ∧ t.env.undocDraws = s.env.undocDraws + 1 ∧
      (∀ c, c < 8 ∨ (264 ≤ c ∧ c < 272) → t.vdp.pixel (s.vdp.line + 8) c = s.vdp.reg[7].extractLsb' 0 4) ∧
      ∀ x : Fin 256, t.vdp.pixel (s.vdp.line + 8) (x.val + 8) =
        overBackground (SpriteBuf.pass s.vdp).linebuf[x] (Config.undocModeBg s.env.undocDraws x)

/-- Every VRAM address the renderer computes on a visible line lies below 0x4000, when the registers are within their masks
(20_memory.md R72). Rests on the spec's own decisions D10, D14, D15 (notes/assumptions/19.md). -/
def Obligations.RendererStaysInVram : Prop :=
  ∀ v : Vdp, v.RegsMasked → v.line < 192 →
    (∀ i, i < 32 → v.nameAddr32 i < 0x4000) ∧ (∀ i, i < 40 → v.nameAddr40 i < 0x4000) ∧
    (∀ name, v.g1PatAddr name < 0x4000 ∧ v.g1ColAddr name < 0x4000 ∧ v.g2PatAddr name < 0x4000 ∧ v.g2ColAddr name < 0x4000 ∧
      v.mcByteAddr name < 0x4000) ∧
    (∀ n k, n < 32 → k < 4 → v.tblSattr + 4 * n + k < 0x4000) ∧
    (∀ e srow sc, srow < v.spriteSize → sc < v.spriteSize → v.spritePatAddr e srow sc < 0x4000)

/-! ## Sprites -/

/-- R265, R267 and R270: after a line that runs a sprite pass, 5S is set if it was or if five sprites cover the line, C is as
the pass leaves it, and FS is the index of the fifth of them, else of the last entry before the end of the table, or is kept
where the table is empty. A line that runs no pass keeps 5S, C and FS. The table, the coverage and the size are those of R260 to
R264, written out in coveringSprites. Rests on the spec's own decisions D10, D11 (notes/assumptions/19.md) and D21
(notes/assumptions/20.md). -/
def Obligations.SpritePassSetsFifthAndIndex : Prop :=
  ∀ s : State, ∃ t, exec .vdpLine s = .next t ∧
    (runsSpritePass s.vdp = true →
      t.vdp.status.getLsbD 6 = (s.vdp.status.getLsbD 6 || decide (5 ≤ (coveringSprites s.vdp).length)) ∧
      t.vdp.status.getLsbD 5 = (SpriteBuf.pass s.vdp).status.getLsbD 5 ∧
      t.vdp.status.toNat % 32 = match (coveringSprites s.vdp)[4]? with
        | some n => n
        | none => if spriteTableLength s.vdp = 0 then s.vdp.status.toNat % 32 else spriteTableLength s.vdp - 1) ∧
    (runsSpritePass s.vdp = false → t.vdp.status &&& 0x7F = s.vdp.status &&& 0x7F)

/-- R267 and R269: a column of the line shows the first of the at most four drawn sprites with a set pattern bit there,
transparent ones included, and C is set if it was or if two drawn sprites have set bits in one column of 0..255. The size and
magnification, the attribute bytes, the position adjustments, the coverage and the pattern address are those of R260 to R264 and
R266, written out in spriteHits and drawnSprites. Rests on the spec's own decisions D10, D13 (notes/assumptions/19.md) and D16,
D17 (notes/assumptions/20.md). -/
def Obligations.SpritePriorityAndCollision : Prop :=
  ∀ v : Vdp,
    (∀ x : Fin 256, (SpriteBuf.pass v).linebuf[x] = match (drawnSprites v).find? fun n => spriteHits v n x with
      | some n => (spriteByte v n 3).extractLsb' 0 4
      | none => 0) ∧
    ((SpriteBuf.pass v).status.getLsbD 5 = true ↔ v.status.getLsbD 5 = true ∨
      ∃ x, x < 256 ∧ ∃ m ∈ drawnSprites v, ∃ n ∈ drawnSprites v, m ≠ n ∧ spriteHits v m x = true ∧ spriteHits v n x = true)

/-! ## The scheduler -/

/-- R293, R294 and R299: a bus operation on one of the block's ports has the effect its decoded operation has in exec, and one
on another port has none; a given CPU step of base b is its bus operations in their order, with k SN writes among them it
reports b + 48k cycles, and it tells the CPU its penalty; an oracle's step is told R299's three things, read values, NMI pulses
and penalties, those of each operation before it chooses the next, and beside them only the CPU's resets. That the oracle is
told the resets, which R341 has the host make, is no part of R299 but the model's own choice, as is the form of the oracle
(notes/assumptions/1.md and 13.md). Rests on the spec's own decisions D1 (notes/assumptions/1.md) and D37
(notes/assumptions/21.md). -/
def Obligations.CpuStepChargesEachSnWrite : Prop :=
  (∀ (s : State) (w : PortWord),
    (∀ i, decodeWord s.latches w = .ok i → exec i s = .next (busOp w s)) ∧
    (∀ e, decodeWord s.latches w = .error e → busOp w s = s)) ∧
  (∀ (s : State) (st : CpuStep) (rest : List CpuStep), s.env.cpuSteps = st :: rest →
    ∃ u, u = st.ops.foldl (fun t w => busOp w t)
        { s with sched := { s.sched with stepPenalty := 0 }, env := { s.env with cpuSteps := rest } } ∧
      u.sched.stepPenalty = 48 * st.ops.countP isSnWrite ∧ u.env.cpuSteps = rest ∧
      cpuStep s = ({ u with env := { u.env with
        events := .cpuStepDone st.base (48 * st.ops.countP isSnWrite) :: u.env.events } }, st.base + 48 * st.ops.countP isSnWrite)) ∧
  (∀ s : State, s.env.cpuSteps = [] →
    ∃ r, r = runCpu (Config.cpuStep (s.env.events.filterMap Event.cpuInput))
        { s with sched := { s.sched with stepPenalty := 0 } } ∧
      cpuStep s = ({ r.1 with env := { r.1.env with
        events := .cpuStepDone r.2 r.1.sched.stepPenalty :: r.1.env.events } }, r.2 + r.1.sched.stepPenalty)) ∧
  (∀ (base : PNat) (s : State), runCpu (.done base) s = (s, base)) ∧
  (∀ (w : PortWord) (next : List CpuInput → CpuProg) (s : State), ∃ ev, (busOp w s).env.events = ev ++ s.env.events ∧
    runCpu (.bus w next) s = runCpu (next (ev.filterMap Event.cpuInput)) (busOp w s)) ∧
  ∀ (port x : Byte) (source : NmiSource) (base penalty n : Nat),
    Event.cpuInput (.readReturned port x) = some (.read x) ∧ Event.cpuInput (.nmi source) = some .nmi ∧
    Event.cpuInput (.cpuStepDone base penalty) = some (.penalty penalty) ∧ Event.cpuInput (.audioReady n) = none ∧
    Event.cpuInput .cpuReset = some .reset

/-- R290, R291 and R292: a CPU slice is CPU steps, each followed by PSG_CLOCK of its cycles, while the budget is not met. A
scanline that completes has run a slice whose steps reported n cycles in total, with n at least the budget 228 - credit; it has
gained floor((psgcycs + n) / 16) samples on each stream and left the remainder; it carries the overrun into the next credit, so
that 228 = credit + n - next credit, and then runs one line step. A line whose budget is already met runs no CPU step. Rests on
the spec's own decisions D31, D32, D33, D37, D43, D44, D45 (notes/assumptions/21.md). -/
def Obligations.ScanlineMeetsItsBudget : Prop :=
  (∀ (fuel : Nat) (req c : Int) (s : State), cpuSlice (fuel + 1) req c s =
    if c < req then andThen (exec (.psgClock (cpuStep s).2) (cpuStep s).1) fun t => cpuSlice fuel req (c + (cpuStep s).2) t
    else .next (s, c)) ∧
  ∀ s t : State, scanline s = .next t →
    ∃ (u : State) (n : Nat) (ev : List Event),
      cpuSlice ((228 : Int) - s.sched.extcycs).toNat (228 - s.sched.extcycs) 0 s = .next (u, n) ∧
      u.env.events = ev ++ s.env.events ∧ n = reportedCycles ev ∧ (228 : Int) - s.sched.extcycs ≤ n ∧
      (s.sched.psgcycs < 16 → u.sched.psgcycs = (s.sched.psgcycs + n) % 16 ∧
        u.sn.snbuf.length = s.sn.snbuf.length + (s.sched.psgcycs + n) / 16 ∧
        u.ay.aybuf.length = s.ay.aybuf.length + (s.sched.psgcycs + n) / 16) ∧
      exec .vdpLine { u with sched := { u.sched with extcycs := t.sched.extcycs } } = .next t ∧
      228 + t.sched.extcycs = s.sched.extcycs + n ∧ (228 ≤ s.sched.extcycs → u = s ∧ n = 0)

/-- R290 and R298: a frame that completes empties both sample buffers, runs NUM_SCANLINES scanlines, mixes and delivers; so it
ends on the line it began on, and has as many SN as AY samples, which are counted. Rests on the spec's own decision D33
(notes/assumptions/21.md). -/
def Obligations.FrameReturnsToItsLine : Prop :=
  ∀ s t : State, exec .frameExec s = .next t →
    (∃ (f : Nat → State) (w : State),
      f 0 = { s with sn := { s.sn with snbuf := [], psgsamps := 0 }, ay := { s.ay with aybuf := [], sgmpsgsamps := 0 } } ∧
      (∀ k, k < s.numScanlines → scanline (f k) = .next (f (k + 1))) ∧
      exec .mix (f s.numScanlines) = .next w ∧ exec .resampleAndDeliver w = .next t) ∧
    (s.vdp.line < s.numScanlines → t.vdp.line = s.vdp.line) ∧
    t.sn.psgsamps = t.sn.snbuf.length ∧ t.ay.sgmpsgsamps = t.ay.aybuf.length ∧
    t.sn.snbuf.length = t.ay.aybuf.length ∧ t.cfg = s.cfg ∧ t.env.stream = s.env.stream ∧ t.env.resets = s.env.resets

/-- A frame completes when enough CPU steps are given, each takes at most E cycles with its penalty, and the buffers hold R7's
bound; it uses at most that many samples and leaves a credit of at most E. Rests on the spec's own decisions D1, D31, D32, D33,
D34, D43, D44, D45 (notes/assumptions/1.md, 12.md and 21.md). -/
def Obligations.FrameCompletesWithinCapacity : Prop :=
  ∀ (s : State) (E : Nat), 228 * s.numScanlines ≤ s.env.cpuSteps.length →
    (∀ st ∈ s.env.cpuSteps, st.base + 48 * st.ops.length ≤ E) →
    s.sched.extcycs ≤ E → s.sched.psgcycs ≤ 15 → (s.numScanlines * 228 + E + 15) / 16 ≤ s.cfg.psgBufCap →
    ∃ t, exec .frameExec s = .next t ∧ t.sched.extcycs ≤ E ∧ t.sched.psgcycs ≤ 15 ∧
      t.sn.psgsamps ≤ (s.numScanlines * 228 + E + 15) / 16

/-! ## Whole-machine rules -/

/-- R322: the VDP raises NMI in exactly two places. An operation other than a frame gives the outside at most one event, and an
NMI among them is the VBlank's, of the line step from line 191 with GINT set and INT clear, or a register write's, to R1 with
GINT going from 0 to 1 and INT set. Rests on the spec's own decisions D6 (notes/assumptions/16.md) and D36
(notes/assumptions/11.md). -/
def Obligations.NmiHasTwoSources : Prop :=
  ∀ (i : Instr) (s t : State), i ≠ .frameExec → exec i s = .next t →
    t.env.events = s.env.events ∨ ∃ e, t.env.events = e :: s.env.events ∧
      (e = .nmi .vblank → i = .vdpLine ∧ s.vdp.line = 191 ∧ s.vdp.reg[1].getLsbD 5 = true ∧ s.vdp.status.getLsbD 7 = false ∧
        t.vdp.status.getLsbD 7 = true) ∧
      (e = .nmi .regWrite → (∃ port a, (i = .vdpRegForm port a ∨ i = .vdpC0 port a ∧ s.cfg.c0Action = .registerWrite) ∧
          a.toNat % 8 = 1) ∧
        s.vdp.reg[1].getLsbD 5 = false ∧ t.vdp.reg[1].getLsbD 5 = true ∧ t.vdp.status.getLsbD 7 = true)

/-- INT is set only by the line step from line 191 and cleared only by a status read (10_state.md R30, R323). -/
def Obligations.IntChangesOnlyAtVblankAndRead : Prop :=
  ∀ (i : Instr) (s t : State), i ≠ .frameExec → exec i s = .next t →
    (s.vdp.status.getLsbD 7 = false → t.vdp.status.getLsbD 7 = true → i = .vdpLine ∧ s.vdp.line = 191) ∧
    (s.vdp.status.getLsbD 7 = true → t.vdp.status.getLsbD 7 = false → ∃ port, i = .vdpStatusRd port)

/-- Only a VDP data write and a frame change VRAM: every other operation leaves every byte as it reads (20_memory.md R71). -/
def Obligations.VramChangesOnlyByDataWrite : Prop :=
  ∀ (i : Instr) (s t : State), i ≠ .frameExec → (∀ port v, i ≠ .vdpDataWr port v) → exec i s = .next t →
    ∀ a, t.vdp.vram.read a = s.vdp.vram.read a

/-- R340's defined elements, at every power-on: line 0, the LFSR seed, no cycle credit, no sample, the resampler's initial state
(notes/assumptions/9.md); and whatever is drawn, the machine meets its invariant. Rests on the spec's own decisions D2, D3, D27,
D30, D31 (notes/assumptions/6.md, 9.md, 18.md and 21.md). -/
def Obligations.PowerOnGivesDefinedElements : Prop :=
  ∀ (d : Draws) (cfg : Setup) (env : Env), (State.powerOn d cfg env).vdp.line = 0 ∧ (State.powerOn d cfg env).sn.lfsr = 0x4000 ∧
    (State.powerOn d cfg env).sched.extcycs = 0 ∧ (State.powerOn d cfg env).sched.psgcycs = 0 ∧
    (State.powerOn d cfg env).sched.rs = [] ∧ (State.powerOn d cfg env).sn.snbuf = [] ∧ (State.powerOn d cfg env).ay.aybuf = [] ∧
    (State.powerOn d cfg env).Inv

/-- R341: a system reset leaves the block unchanged, or initialises it as at power-on with new draws, by RESET_EFFECT; under either the
CPU resets. That this reset is an event, by which the oracle is told, is the model's own choice. Rests on the spec's own decision D35 (notes/assumptions/13.md). -/
def Obligations.SystemResetFollowsItsParameter : Prop :=
  ∀ (s : State) (rest : List Issue), s.env.stream = .systemReset :: rest →
    (s.cfg.resetEffect = .unchanged →
      step s = .next { s with env := { s.env with stream := rest, events := .cpuReset :: s.env.events } }) ∧
    (s.cfg.resetEffect = .reinit → ∃ t, step s = .next t ∧ ∃ d : Draws, t.vdp = (State.powerOn d s.cfg s.env).vdp ∧
      t.sn = (State.powerOn d s.cfg s.env).sn ∧ t.ay = (State.powerOn d s.cfg s.env).ay ∧
      t.sched = (State.powerOn d s.cfg s.env).sched ∧ t.cfg = s.cfg ∧
      t.env = { s.env with stream := rest, events := .cpuReset :: s.env.events, resets := s.env.resets + 1 })

/-- The machine after reset meets the invariant. Rests on the spec's own decisions D2, D3, D27, D31 (notes/assumptions/6.md,
18.md and 21.md). -/
def Obligations.ResetMeetsInvariant : Prop := State.reset.Inv

/-- Every step, a whole frame included, keeps the invariant: canonical VRAM, masked registers, a line of the frame, legal
outputs and counters, counted samples, a PSG accumulator below 16. Rests on the spec's own decisions D26, D27, D33, D44
(notes/assumptions/18.md and 21.md). -/
def Obligations.StepKeepsInvariant : Prop :=
  ∀ s t : State, s.Inv → step s = .next t → t.Inv

/-- R233's output frame: 272 × 208 pixels of four bytes, row 0 first and column 0 first in each row, each pixel the palette's entry of
its frame-buffer index. Indices 0 and 1 are opaque black, every pixel has alpha 0xFF, and its bytes are B, G, R, 0xFF in that order
(20_memory.md R73). Rests on the spec's own decision D20 (notes/assumptions/10.md), and the row-major order on general knowledge (R233). -/
def Obligations.OutputPixelsAreOpaque : Prop :=
  (∀ s : State, (outputBytes s).length = 4 * (272 * 208)) ∧
  (∀ (s : State) (r : Fin 208) (c : Fin 272),
    outputPixel s r c = paletteEntry s.cfg.palette s.vdp.fb[r][c] ∧
    ((outputBytes s).drop (4 * (272 * r.val + c.val))).take 4 = pixelBytes (outputPixel s r c)) ∧
  ∀ (variant : PaletteVariant) (c : Colour),
    (c.toNat ≤ 1 → paletteEntry variant c = 0xFF000000) ∧
    ∃ r g b : Byte, paletteEntry variant c = 0xFF#8 ++ r ++ g ++ b ∧ pixelBytes (paletteEntry variant c) = [b, g, r, 0xFF]
end

