-- ==== Sys2Proof/Laws/State.lean ====
section
/-! SUPPORT. One lemma per field of State per update, so that no proof unfolds a record update. -/

namespace Sys2Proof.Machine.State

@[simp] theorem setVdp_vdp (s : State) (x : Vdp) : (s.setVdp x).vdp = x := rfl
@[simp] theorem setVdp_sn (s : State) (x : Vdp) : (s.setVdp x).sn = s.sn := rfl
@[simp] theorem setVdp_ay (s : State) (x : Vdp) : (s.setVdp x).ay = s.ay := rfl
@[simp] theorem setVdp_sched (s : State) (x : Vdp) : (s.setVdp x).sched = s.sched := rfl
@[simp] theorem setVdp_cfg (s : State) (x : Vdp) : (s.setVdp x).cfg = s.cfg := rfl
@[simp] theorem setVdp_env (s : State) (x : Vdp) : (s.setVdp x).env = s.env := rfl
@[simp] theorem setVdp_numScanlines (s : State) (x : Vdp) : (s.setVdp x).numScanlines = s.numScanlines := rfl

@[simp] theorem setSn_vdp (s : State) (x : Sn) : (s.setSn x).vdp = s.vdp := rfl
@[simp] theorem setSn_sn (s : State) (x : Sn) : (s.setSn x).sn = x := rfl
@[simp] theorem setSn_ay (s : State) (x : Sn) : (s.setSn x).ay = s.ay := rfl
@[simp] theorem setSn_sched (s : State) (x : Sn) : (s.setSn x).sched = s.sched := rfl
@[simp] theorem setSn_cfg (s : State) (x : Sn) : (s.setSn x).cfg = s.cfg := rfl
@[simp] theorem setSn_env (s : State) (x : Sn) : (s.setSn x).env = s.env := rfl
@[simp] theorem setSn_numScanlines (s : State) (x : Sn) : (s.setSn x).numScanlines = s.numScanlines := rfl

@[simp] theorem setAy_vdp (s : State) (x : Ay) : (s.setAy x).vdp = s.vdp := rfl
@[simp] theorem setAy_sn (s : State) (x : Ay) : (s.setAy x).sn = s.sn := rfl
@[simp] theorem setAy_ay (s : State) (x : Ay) : (s.setAy x).ay = x := rfl
@[simp] theorem setAy_sched (s : State) (x : Ay) : (s.setAy x).sched = s.sched := rfl
@[simp] theorem setAy_cfg (s : State) (x : Ay) : (s.setAy x).cfg = s.cfg := rfl
@[simp] theorem setAy_env (s : State) (x : Ay) : (s.setAy x).env = s.env := rfl
@[simp] theorem setAy_numScanlines (s : State) (x : Ay) : (s.setAy x).numScanlines = s.numScanlines := rfl

@[simp] theorem setSched_vdp (s : State) (x : Sched) : (s.setSched x).vdp = s.vdp := rfl
@[simp] theorem setSched_sn (s : State) (x : Sched) : (s.setSched x).sn = s.sn := rfl
@[simp] theorem setSched_ay (s : State) (x : Sched) : (s.setSched x).ay = s.ay := rfl
@[simp] theorem setSched_sched (s : State) (x : Sched) : (s.setSched x).sched = x := rfl
@[simp] theorem setSched_cfg (s : State) (x : Sched) : (s.setSched x).cfg = s.cfg := rfl
@[simp] theorem setSched_env (s : State) (x : Sched) : (s.setSched x).env = s.env := rfl
@[simp] theorem setSched_numScanlines (s : State) (x : Sched) : (s.setSched x).numScanlines = s.numScanlines := rfl

@[simp] theorem setEnv_vdp (s : State) (x : Env) : (s.setEnv x).vdp = s.vdp := rfl
@[simp] theorem setEnv_sn (s : State) (x : Env) : (s.setEnv x).sn = s.sn := rfl
@[simp] theorem setEnv_ay (s : State) (x : Env) : (s.setEnv x).ay = s.ay := rfl
@[simp] theorem setEnv_sched (s : State) (x : Env) : (s.setEnv x).sched = s.sched := rfl
@[simp] theorem setEnv_cfg (s : State) (x : Env) : (s.setEnv x).cfg = s.cfg := rfl
@[simp] theorem setEnv_env (s : State) (x : Env) : (s.setEnv x).env = x := rfl
@[simp] theorem setEnv_numScanlines (s : State) (x : Env) : (s.setEnv x).numScanlines = s.numScanlines := rfl

@[simp] theorem emit_vdp (s : State) (e : Event) : (s.emit e).vdp = s.vdp := rfl
@[simp] theorem emit_sn (s : State) (e : Event) : (s.emit e).sn = s.sn := rfl
@[simp] theorem emit_ay (s : State) (e : Event) : (s.emit e).ay = s.ay := rfl
@[simp] theorem emit_sched (s : State) (e : Event) : (s.emit e).sched = s.sched := rfl
@[simp] theorem emit_cfg (s : State) (e : Event) : (s.emit e).cfg = s.cfg := rfl
@[simp] theorem raiseNmi_vdp (s : State) (e : NmiSource) : (s.raiseNmi e).vdp = s.vdp := rfl
@[simp] theorem raiseNmi_sn (s : State) (e : NmiSource) : (s.raiseNmi e).sn = s.sn := rfl
@[simp] theorem raiseNmi_ay (s : State) (e : NmiSource) : (s.raiseNmi e).ay = s.ay := rfl
@[simp] theorem raiseNmi_sched (s : State) (e : NmiSource) : (s.raiseNmi e).sched = s.sched := rfl
@[simp] theorem raiseNmi_cfg (s : State) (e : NmiSource) : (s.raiseNmi e).cfg = s.cfg := rfl
@[simp] theorem emit_env (s : State) (e : Event) : (s.emit e).env = { s.env with events := e :: s.env.events } := rfl
@[simp] theorem raiseNmi_env (s : State) (e : NmiSource) :
    (s.raiseNmi e).env = { s.env with events := .nmi e :: s.env.events } := rfl
@[simp] theorem giveRead_vdp (s : State) (p x : Byte) : (s.giveRead p x).vdp = s.vdp := rfl
@[simp] theorem giveRead_sn (s : State) (p x : Byte) : (s.giveRead p x).sn = s.sn := rfl
@[simp] theorem giveRead_ay (s : State) (p x : Byte) : (s.giveRead p x).ay = s.ay := rfl
@[simp] theorem giveRead_sched (s : State) (p x : Byte) : (s.giveRead p x).sched = s.sched := rfl
@[simp] theorem giveRead_cfg (s : State) (p x : Byte) : (s.giveRead p x).cfg = s.cfg := rfl
@[simp] theorem giveRead_env (s : State) (p x : Byte) :
    (s.giveRead p x).env = { s.env with events := .readReturned p x :: s.env.events } := rfl
@[simp] theorem chargeSnWrite_vdp (s : State) : s.chargeSnWrite.vdp = s.vdp := rfl
@[simp] theorem chargeSnWrite_sn (s : State) : s.chargeSnWrite.sn = s.sn := rfl
@[simp] theorem chargeSnWrite_ay (s : State) : s.chargeSnWrite.ay = s.ay := rfl
@[simp] theorem chargeSnWrite_cfg (s : State) : s.chargeSnWrite.cfg = s.cfg := rfl
@[simp] theorem chargeSnWrite_env (s : State) : s.chargeSnWrite.env = s.env := rfl
@[simp] theorem chargeSnWrite_sched (s : State) :
    s.chargeSnWrite.sched = { s.sched with stepPenalty := s.sched.stepPenalty + 48 } := rfl
@[simp] theorem dropIssue_vdp (s : State) (r : List Issue) : (s.dropIssue r).vdp = s.vdp := rfl
@[simp] theorem dropIssue_sn (s : State) (r : List Issue) : (s.dropIssue r).sn = s.sn := rfl
@[simp] theorem dropIssue_ay (s : State) (r : List Issue) : (s.dropIssue r).ay = s.ay := rfl
@[simp] theorem dropIssue_sched (s : State) (r : List Issue) : (s.dropIssue r).sched = s.sched := rfl
@[simp] theorem dropIssue_cfg (s : State) (r : List Issue) : (s.dropIssue r).cfg = s.cfg := rfl
@[simp] theorem dropIssue_env (s : State) (r : List Issue) : (s.dropIssue r).env = { s.env with stream := r } := rfl

/-- An update of one component changes that component only. -/
theorem onlyVdp_setVdp (s : State) (x : Vdp) : OnlyVdp s (s.setVdp x) := ⟨rfl, rfl, rfl, rfl, rfl⟩
theorem onlySn_setSn (s : State) (x : Sn) : OnlySn s (s.setSn x) := ⟨rfl, rfl, rfl, rfl, rfl⟩
theorem onlyAy_setAy (s : State) (x : Ay) : OnlyAy s (s.setAy x) := ⟨rfl, rfl, rfl, rfl, rfl⟩

end Sys2Proof.Machine.State
end

