-- ==== Sys2Proof/Laws/Psg.lean ====
section
/-! SUPPORT. What one tick of each generator of the two PSGs does, said once: the callers cite these and never unfold a tick. -/

namespace Sys2Proof.Machine

namespace Sn

theorem countDown_eq_zero (n : BitVec 10) : countDown n = 0 ↔ n.toNat ≤ 1 := by
  revert n; decide +kernel

theorem countDown_toNat (n : BitVec 10) : (countDown n).toNat = n.toNat - 1 := by
  revert n; decide +kernel

theorem xor_one_shift (f : BitVec 4) (i j : Nat) (hi : i < 4) (hj : j < 4) :
    (f ^^^ (1#4 <<< i)).getLsbD j = if j = i then !f.getLsbD j else f.getLsbD j := by
  have h : ∀ (f : BitVec 4) (i j : Fin 4), (f ^^^ (1#4 <<< i.val)).getLsbD j.val =
      if j.val = i.val then !f.getLsbD j.val else f.getLsbD j.val := by decide +kernel
  exact h f ⟨i, hi⟩ ⟨j, hj⟩

/-- What a tick of tone channel `i` keeps. -/
theorem tickTone_frame (c : Sn) (i : Fin 3) :
    c.tickTone i = { c with cnt := (c.tickTone i).cnt, freqff := (c.tickTone i).freqff, out := (c.tickTone i).out } := by
  unfold tickTone; dsimp only; split <;> rfl

@[simp] theorem tickTone_lch (c : Sn) (i : Fin 3) : (c.tickTone i).lch = c.lch := by rw [tickTone_frame]
@[simp] theorem tickTone_ltype (c : Sn) (i : Fin 3) : (c.tickTone i).ltype = c.ltype := by rw [tickTone_frame]
@[simp] theorem tickTone_att (c : Sn) (i : Fin 3) : (c.tickTone i).att = c.att := by rw [tickTone_frame]
@[simp] theorem tickTone_freq (c : Sn) (i : Fin 3) : (c.tickTone i).freq = c.freq := by rw [tickTone_frame]
@[simp] theorem tickTone_noise (c : Sn) (i : Fin 3) : (c.tickTone i).noise = c.noise := by rw [tickTone_frame]
@[simp] theorem tickTone_lfsr (c : Sn) (i : Fin 3) : (c.tickTone i).lfsr = c.lfsr := by rw [tickTone_frame]
@[simp] theorem tickTone_snbuf (c : Sn) (i : Fin 3) : (c.tickTone i).snbuf = c.snbuf := by rw [tickTone_frame]
@[simp] theorem tickTone_psgsamps (c : Sn) (i : Fin 3) : (c.tickTone i).psgsamps = c.psgsamps := by rw [tickTone_frame]

@[simp] theorem tickTone_noiseReload (c : Sn) (i : Fin 3) : (c.tickTone i).noiseReload = c.noiseReload := by
  rw [tickTone_frame]; rfl
@[simp] theorem tickTone_volume (c : Sn) (i : Fin 3) (k : Fin 4) : (c.tickTone i).volume k = c.volume k := by
  rw [tickTone_frame]; rfl
@[simp] theorem tickTone_fb (c : Sn) (i : Fin 3) : (c.tickTone i).fb = c.fb := by rw [tickTone_frame]; rfl

/-- A tick of tone channel `i`: the counter of every channel `j` after it (40_sn76489.md R127). -/
theorem tickTone_cnt (c : Sn) (i : Fin 3) (j : Nat) (hj : j < 4) :
    (c.tickTone i).cnt[j] =
      if j = i.val then (if c.cnt[i.val].toNat ≤ 1 then c.freq[i] else countDown c.cnt[i.val]) else c.cnt[j] := by
  simp only [tickTone, countDown_eq_zero]
  split <;> by_cases h : j = i.val <;> simp_all [Ne.symm]

/-- The flip-flop of every channel `j` after a tick of tone channel `i` (R127). -/
theorem tickTone_freqff (c : Sn) (i : Fin 3) (j : Nat) (hj : j < 4) :
    (c.tickTone i).freqff.getLsbD j =
      if j = i.val ∧ c.cnt[i.val].toNat ≤ 1 then !c.freqff.getLsbD j else c.freqff.getLsbD j := by
  simp only [tickTone, countDown_eq_zero]
  by_cases h1 : c.cnt[i.val].toNat ≤ 1
  · simp only [h1, if_true, and_true]; exact xor_one_shift _ _ _ (by omega) hj
  · simp only [h1, if_false, and_false]

/-- The output of every channel `j` after a tick of tone channel `i` (R127). -/
theorem tickTone_out (c : Sn) (i : Fin 3) (j : Nat) (hj : j < 4) :
    (c.tickTone i).out[j] =
      if j = i.val ∧ c.cnt[i.val].toNat ≤ 1 then
        (if c.freqff.getLsbD i then c.volume i.castSucc else 0) else c.out[j] := by
  simp only [tickTone, countDown_eq_zero]
  by_cases h1 : c.cnt[i.val].toNat ≤ 1
  · have hx := xor_one_shift c.freqff i.val i.val (by omega) (by omega)
    simp only [if_true] at hx
    simp only [h1, if_true, and_true, hx]
    by_cases h : j = i.val
    · subst h; by_cases hf : c.freqff.getLsbD i.val = true <;> simp [hf, -BitVec.getLsbD_eq_getElem]
    · simp [h, Ne.symm h]
  · simp only [h1, if_false, and_false]

/-- What a tick of the noise channel keeps. -/
theorem tickNoise_frame (c : Sn) :
    c.tickNoise = { c with cnt := c.tickNoise.cnt, freqff := c.tickNoise.freqff, out := c.tickNoise.out, lfsr := c.tickNoise.lfsr } := by
  unfold tickNoise; dsimp only; split <;> rfl

@[simp] theorem tickNoise_lch (c : Sn) : c.tickNoise.lch = c.lch := by rw [tickNoise_frame]
@[simp] theorem tickNoise_ltype (c : Sn) : c.tickNoise.ltype = c.ltype := by rw [tickNoise_frame]
@[simp] theorem tickNoise_att (c : Sn) : c.tickNoise.att = c.att := by rw [tickNoise_frame]
@[simp] theorem tickNoise_freq (c : Sn) : c.tickNoise.freq = c.freq := by rw [tickNoise_frame]
@[simp] theorem tickNoise_noise (c : Sn) : c.tickNoise.noise = c.noise := by rw [tickNoise_frame]
@[simp] theorem tickNoise_snbuf (c : Sn) : c.tickNoise.snbuf = c.snbuf := by rw [tickNoise_frame]
@[simp] theorem tickNoise_psgsamps (c : Sn) : c.tickNoise.psgsamps = c.psgsamps := by rw [tickNoise_frame]

theorem tickNoise_cnt (c : Sn) (j : Nat) (hj : j < 4) :
    c.tickNoise.cnt[j] = if j = 3 then (if c.cnt[3].toNat ≤ 1 then c.noiseReload else countDown c.cnt[3]) else c.cnt[j] := by
  simp only [tickNoise, countDown_eq_zero]
  split <;> by_cases h : j = 3 <;> simp_all [Ne.symm]

theorem tickNoise_freqff (c : Sn) (j : Nat) (hj : j < 4) :
    c.tickNoise.freqff.getLsbD j = if j = 3 ∧ c.cnt[3].toNat ≤ 1 then !c.freqff.getLsbD j else c.freqff.getLsbD j := by
  simp only [tickNoise, countDown_eq_zero]
  by_cases h1 : c.cnt[3].toNat ≤ 1
  · simp only [h1, if_true, and_true]; exact xor_one_shift c.freqff 3 j (by omega) hj
  · simp only [h1, if_false, and_false]

theorem tickNoise_out (c : Sn) (j : Nat) (hj : j < 4) :
    c.tickNoise.out[j] = if j = 3 then (if c.lfsr.getLsbD 0 then c.volume 3 else 0) else c.out[j] := by
  have : c.tickNoise.out = c.out.set 3 (if c.lfsr.getLsbD 0 then c.volume 3 else 0) := by
    unfold tickNoise; dsimp only; split <;> rfl
  simp only [this]
  by_cases h : j = 3
  · simp [h]
  · simp [h, Ne.symm h]

/-- The noise register after a tick: shifted on the flip-flop's change to 1 (R127). -/
theorem tickNoise_lfsr (c : Sn) :
    c.tickNoise.lfsr = if c.cnt[3].toNat ≤ 1 ∧ c.freqff.getLsbD 3 = false then lfsrShift c.lfsr c.fb else c.lfsr := by
  simp only [tickNoise, countDown_eq_zero]
  have hx := xor_one_shift c.freqff 3 3 (by omega) (by omega)
  have he : (1#4 <<< 3) = 0b1000#4 := by decide
  simp only [if_true, he] at hx
  by_cases h1 : c.cnt[3].toNat ≤ 1
  · simp only [h1, if_true, true_and]
    have : (c.freqff ^^^ 0b1000).getLsbD 3 = !c.freqff.getLsbD 3 := hx
    rw [this]; cases c.freqff.getLsbD 3 <;> simp
  · simp only [h1, if_false, false_and]

@[simp] theorem appendSample_lch (c : Sn) (x : Sample) : (c.appendSample x).lch = c.lch := rfl
@[simp] theorem appendSample_ltype (c : Sn) (x : Sample) : (c.appendSample x).ltype = c.ltype := rfl
@[simp] theorem appendSample_att (c : Sn) (x : Sample) : (c.appendSample x).att = c.att := rfl
@[simp] theorem appendSample_freq (c : Sn) (x : Sample) : (c.appendSample x).freq = c.freq := rfl
@[simp] theorem appendSample_noise (c : Sn) (x : Sample) : (c.appendSample x).noise = c.noise := rfl
@[simp] theorem appendSample_cnt (c : Sn) (x : Sample) : (c.appendSample x).cnt = c.cnt := rfl
@[simp] theorem appendSample_out (c : Sn) (x : Sample) : (c.appendSample x).out = c.out := rfl
@[simp] theorem appendSample_freqff (c : Sn) (x : Sample) : (c.appendSample x).freqff = c.freqff := rfl
@[simp] theorem appendSample_lfsr (c : Sn) (x : Sample) : (c.appendSample x).lfsr = c.lfsr := rfl
@[simp] theorem appendSample_snbuf (c : Sn) (x : Sample) : (c.appendSample x).snbuf = c.snbuf ++ [x] := rfl
@[simp] theorem appendSample_psgsamps (c : Sn) (x : Sample) : (c.appendSample x).psgsamps = c.psgsamps + 1 := rfl
@[simp] theorem appendSample_mixed (c : Sn) (x : Sample) : (c.appendSample x).mixed = c.mixed := rfl

@[simp] theorem tick_lch (c : Sn) : c.tick.lch = c.lch := by simp [tick, tickChannels]
@[simp] theorem tick_ltype (c : Sn) : c.tick.ltype = c.ltype := by simp [tick, tickChannels]
@[simp] theorem tick_att (c : Sn) : c.tick.att = c.att := by simp [tick, tickChannels]
@[simp] theorem tick_freq (c : Sn) : c.tick.freq = c.freq := by simp [tick, tickChannels]
@[simp] theorem tick_noise (c : Sn) : c.tick.noise = c.noise := by simp [tick, tickChannels]
@[simp] theorem tick_psgsamps (c : Sn) : c.tick.psgsamps = c.psgsamps + 1 := by simp [tick, tickChannels]
@[simp] theorem tick_snbuf (c : Sn) : c.tick.snbuf = c.snbuf ++ [c.tick.mixed] := by simp [tick, tickChannels]

/-- The reload value as numbers (R127). -/
theorem noiseReload_toNat (c : Sn) : c.noiseReload.toNat =
    if c.noise.toNat % 4 = 3 then c.freq[2].toNat else 16 * 2 ^ (c.noise.toNat % 4) := by
  have h : ∀ n : BitVec 3, (n.toNat &&& 3 = 3 ↔ n.toNat % 4 = 3) ∧
      (0x10#10 <<< (n.toNat &&& 3)).toNat = 16 * 2 ^ (n.toNat % 4) := by decide
  by_cases h3 : c.nr = 3
  · rw [noiseReload, if_pos h3, if_pos ((h c.noise).1.1 h3)]
  · rw [noiseReload, if_neg h3, if_neg fun h' => h3 ((h c.noise).1.2 h')]; exact (h c.noise).2

/-- The four channels of a tick leave each other's counters alone. -/
theorem tickChannels_cnt (c : Sn) (j : Nat) (hj : j < 3) (h4 : j < 4) :
    c.tickChannels.cnt[j] = if c.cnt[j].toNat ≤ 1 then c.freq[j] else countDown c.cnt[j] := by
  unfold tickChannels
  generalize hd : ((c.tickTone 0).tickTone 1).tickTone 2 = d
  rw [tickNoise_cnt, if_neg (by omega), ← hd]
  obtain rfl | rfl | rfl : j = 0 ∨ j = 1 ∨ j = 2 := by omega
  · rw [tickTone_cnt, if_neg (by decide), tickTone_cnt, if_neg (by decide), tickTone_cnt, if_pos (by decide)]; rfl
  · rw [tickTone_cnt, if_neg (by decide), tickTone_cnt, if_pos (by decide), tickTone_freq]
    simp only [tickTone_cnt]; rfl
  · rw [tickTone_cnt, if_pos (by decide), tickTone_freq, tickTone_freq]
    simp only [tickTone_cnt]; rfl

/-- The counters after a tick, tone channel by tone channel (R127). -/
theorem tick_cnt_tone (c : Sn) (j : Nat) (hj : j < 3) (h4 : j < 4) :
    c.tick.cnt[j] = if c.cnt[j].toNat ≤ 1 then c.freq[j] else countDown c.cnt[j] := by
  simp only [tick, appendSample_cnt]; exact tickChannels_cnt c j hj h4

theorem tick_cnt_noise (c : Sn) : c.tick.cnt[3] = if c.cnt[3].toNat ≤ 1 then c.noiseReload else countDown c.cnt[3] := by
  rw [tick]; unfold tickChannels
  simp [tickNoise_cnt, tickTone_cnt]

theorem tick_freqff (c : Sn) (j : Nat) (hj : j < 4) :
    c.tick.freqff.getLsbD j = if c.cnt[j].toNat ≤ 1 then !c.freqff.getLsbD j else c.freqff.getLsbD j := by
  rw [tick]; unfold tickChannels
  obtain rfl | rfl | rfl | rfl : j = 0 ∨ j = 1 ∨ j = 2 ∨ j = 3 := by omega
  all_goals simp [tickNoise_freqff, tickTone_freqff, tickTone_cnt, -BitVec.getLsbD_eq_getElem]

/-- The four channels of a tick leave each other's outputs alone. -/
theorem tickChannels_out (c : Sn) (j : Nat) (hj : j < 3) (h4 : j < 4) :
    c.tickChannels.out[j] = if c.cnt[j].toNat ≤ 1 then (if c.freqff.getLsbD j then c.volume ⟨j, h4⟩ else 0) else c.out[j] := by
  unfold tickChannels
  generalize hd : ((c.tickTone 0).tickTone 1).tickTone 2 = d
  rw [tickNoise_out, if_neg (by omega), ← hd]
  obtain rfl | rfl | rfl : j = 0 ∨ j = 1 ∨ j = 2 := by omega
  · rw [tickTone_out, if_neg (by simp), tickTone_out, if_neg (by simp), tickTone_out]; simp
  · have h1 : (c.tickTone 0).cnt[1] = c.cnt[1] := by rw [tickTone_cnt, if_neg (by decide)]
    have h2 : (c.tickTone 0).out[1] = c.out[1] := by rw [tickTone_out, if_neg (by simp)]
    have h3 : (c.tickTone 0).freqff.getLsbD 1 = c.freqff.getLsbD 1 := by rw [tickTone_freqff _ _ _ (by decide), if_neg (by simp)]
    have h5 := tickTone_volume c 0 1
    rw [tickTone_out, if_neg (by simp), tickTone_out]
    generalize c.tickTone 0 = e at h1 h2 h3 h5
    simpa [-BitVec.getLsbD_eq_getElem, h1, h2, h3] using by rw [h5]
  · have h1 : ((c.tickTone 0).tickTone 1).cnt[2] = c.cnt[2] := by
      rw [tickTone_cnt, if_neg (by decide), tickTone_cnt, if_neg (by decide)]
    have h2 : ((c.tickTone 0).tickTone 1).out[2] = c.out[2] := by
      rw [tickTone_out, if_neg (by simp), tickTone_out, if_neg (by simp)]
    have h3 : ((c.tickTone 0).tickTone 1).freqff.getLsbD 2 = c.freqff.getLsbD 2 := by
      rw [tickTone_freqff _ _ _ (by decide), if_neg (by simp), tickTone_freqff _ _ _ (by decide), if_neg (by simp)]
    have h5 : ((c.tickTone 0).tickTone 1).volume 2 = c.volume 2 := by rw [tickTone_volume, tickTone_volume]
    rw [tickTone_out]
    generalize (c.tickTone 0).tickTone 1 = e at h1 h2 h3 h5
    simpa [-BitVec.getLsbD_eq_getElem, h1, h2, h3] using by rw [h5]

/-- The outputs after a tick, tone channel by tone channel (R127). -/
theorem tick_out_tone (c : Sn) (j : Nat) (hj : j < 3) (h4 : j < 4) :
    c.tick.out[j] = if c.cnt[j].toNat ≤ 1 then (if c.freqff.getLsbD j then c.volume ⟨j, h4⟩ else 0) else c.out[j] := by
  simp only [tick, appendSample_out]; exact tickChannels_out c j hj h4

theorem tick_out_noise (c : Sn) : c.tick.out[3] = if c.lfsr.getLsbD 0 then c.volume 3 else 0 := by
  rw [tick]; unfold tickChannels
  simp [tickNoise_out]

theorem tick_lfsr (c : Sn) :
    c.tick.lfsr = if c.cnt[3].toNat ≤ 1 ∧ c.freqff.getLsbD 3 = false then lfsrShift c.lfsr c.fb else c.lfsr := by
  rw [tick]; unfold tickChannels
  simp [tickNoise_lfsr, tickTone_cnt, tickTone_freqff, -BitVec.getLsbD_eq_getElem]

end Sn

namespace Ay

/-- A pair of registers as one number: no bit of the two overlaps. -/
theorem registerPair_eq (lo hi : Byte) : lo.toNat ||| hi.toNat <<< 8 = lo.toNat + 256 * hi.toNat := by
  rw [Nat.shiftLeft_eq, Nat.or_comm, Nat.mul_comm, ← Nat.two_pow_add_eq_or_of_lt (i := 8) lo.isLt, Nat.add_comm]

/-- The tone period as a sum (41_ay8910.md R152). -/
theorem tperiod_eq (a : Ay) (i : Fin 3) :
    a.tperiod i = max 1 (a.reg[2 * i.val].toNat + 256 * a.reg[2 * i.val + 1].toNat) := by rw [tperiod, registerPair_eq]

/-- The envelope period as a sum (41_ay8910.md R156). -/
theorem eperiod_eq (a : Ay) : a.eperiod = a.reg[11].toNat + 256 * a.reg[12].toNat := by rw [eperiod, registerPair_eq]

/-- A tick of tone channel `i` (41_ay8910.md R161). -/
theorem tickTone_frame (a : Ay) (i : Fin 3) : a.tickTone i = { a with tcnt := (a.tickTone i).tcnt, sign := (a.tickTone i).sign } := by
  unfold tickTone; split <;> rfl

@[simp] theorem tickTone_reg (a : Ay) (i : Fin 3) : (a.tickTone i).reg = a.reg := by rw [tickTone_frame]
@[simp] theorem tickTone_tperiod (a : Ay) (i j : Fin 3) : (a.tickTone i).tperiod j = a.tperiod j := by rw [tickTone_frame]; rfl

theorem tickTone_tcnt (a : Ay) (i : Fin 3) (j : Nat) (hj : j < 3) :
    (a.tickTone i).tcnt[j] = if j = i.val then (if a.tperiod i ≤ a.tcnt[i] + 1 then 0 else a.tcnt[i] + 1) else a.tcnt[j] := by
  unfold tickTone
  by_cases h : j = i.val
  · subst h; simp only [if_true]; split <;> simp
  · split <;> simp [h, Ne.symm h]

theorem tickTone_sign (a : Ay) (i : Fin 3) (j : Nat) (hj : j < 3) :
    (a.tickTone i).sign[j] = if j = i.val ∧ a.tperiod i ≤ a.tcnt[i] + 1 then !a.sign[i] else a.sign[j] := by
  unfold tickTone
  by_cases h : j = i.val
  · subst h; split <;> rename_i hp <;> simp only [hp, and_true, and_false, if_true, if_false] <;> simp
  · split <;> simp [h, Ne.symm h]

theorem tickNoise_frame (a : Ay) : a.tickNoise = { a with ncnt := a.tickNoise.ncnt, nshift := a.tickNoise.nshift } := by
  unfold tickNoise; split <;> rfl

theorem envStep_frame (a : Ay) : a.envStep = { a with evol := a.envStep.evol, estep := a.envStep.estep, eseg := a.envStep.eseg } := by
  unfold envStep; dsimp only; split <;> rfl

/-- The envelope step reads only the shape, and evol, estep and eseg. -/
theorem tickEnvelope_frame (a : Ay) : a.tickEnvelope =
    { a with ecnt := a.tickEnvelope.ecnt, evol := a.tickEnvelope.evol, estep := a.tickEnvelope.estep, eseg := a.tickEnvelope.eseg } := by
  unfold tickEnvelope; split
  · rw [envStep_frame]
  · rfl

@[simp] theorem tickTone_ayidx (a : Ay) (i : Fin 3) : (a.tickTone i).ayidx = a.ayidx := by rw [tickTone_frame]
@[simp] theorem tickTone_aybuf (a : Ay) (i : Fin 3) : (a.tickTone i).aybuf = a.aybuf := by rw [tickTone_frame]
@[simp] theorem tickTone_sgmpsgsamps (a : Ay) (i : Fin 3) : (a.tickTone i).sgmpsgsamps = a.sgmpsgsamps := by rw [tickTone_frame]
@[simp] theorem tickTone_ncnt (a : Ay) (i : Fin 3) : (a.tickTone i).ncnt = a.ncnt := by rw [tickTone_frame]
@[simp] theorem tickTone_nshift (a : Ay) (i : Fin 3) : (a.tickTone i).nshift = a.nshift := by rw [tickTone_frame]
@[simp] theorem tickTone_ecnt (a : Ay) (i : Fin 3) : (a.tickTone i).ecnt = a.ecnt := by rw [tickTone_frame]
@[simp] theorem tickTone_evol (a : Ay) (i : Fin 3) : (a.tickTone i).evol = a.evol := by rw [tickTone_frame]
@[simp] theorem tickTone_estep (a : Ay) (i : Fin 3) : (a.tickTone i).estep = a.estep := by rw [tickTone_frame]
@[simp] theorem tickTone_eseg (a : Ay) (i : Fin 3) : (a.tickTone i).eseg = a.eseg := by rw [tickTone_frame]
@[simp] theorem tickNoise_reg (a : Ay) : a.tickNoise.reg = a.reg := by rw [tickNoise_frame]
@[simp] theorem tickNoise_ayidx (a : Ay) : a.tickNoise.ayidx = a.ayidx := by rw [tickNoise_frame]
@[simp] theorem tickNoise_tcnt (a : Ay) : a.tickNoise.tcnt = a.tcnt := by rw [tickNoise_frame]
@[simp] theorem tickNoise_sign (a : Ay) : a.tickNoise.sign = a.sign := by rw [tickNoise_frame]
@[simp] theorem tickNoise_ecnt (a : Ay) : a.tickNoise.ecnt = a.ecnt := by rw [tickNoise_frame]
@[simp] theorem tickNoise_evol (a : Ay) : a.tickNoise.evol = a.evol := by rw [tickNoise_frame]
@[simp] theorem tickNoise_estep (a : Ay) : a.tickNoise.estep = a.estep := by rw [tickNoise_frame]
@[simp] theorem tickNoise_eseg (a : Ay) : a.tickNoise.eseg = a.eseg := by rw [tickNoise_frame]
@[simp] theorem tickNoise_aybuf (a : Ay) : a.tickNoise.aybuf = a.aybuf := by rw [tickNoise_frame]
@[simp] theorem tickNoise_sgmpsgsamps (a : Ay) : a.tickNoise.sgmpsgsamps = a.sgmpsgsamps := by rw [tickNoise_frame]
@[simp] theorem tickEnvelope_reg (a : Ay) : a.tickEnvelope.reg = a.reg := by rw [tickEnvelope_frame]
@[simp] theorem tickEnvelope_ayidx (a : Ay) : a.tickEnvelope.ayidx = a.ayidx := by rw [tickEnvelope_frame]
@[simp] theorem tickEnvelope_tcnt (a : Ay) : a.tickEnvelope.tcnt = a.tcnt := by rw [tickEnvelope_frame]
@[simp] theorem tickEnvelope_sign (a : Ay) : a.tickEnvelope.sign = a.sign := by rw [tickEnvelope_frame]
@[simp] theorem tickEnvelope_ncnt (a : Ay) : a.tickEnvelope.ncnt = a.ncnt := by rw [tickEnvelope_frame]
@[simp] theorem tickEnvelope_nshift (a : Ay) : a.tickEnvelope.nshift = a.nshift := by rw [tickEnvelope_frame]
@[simp] theorem tickEnvelope_aybuf (a : Ay) : a.tickEnvelope.aybuf = a.aybuf := by rw [tickEnvelope_frame]
@[simp] theorem tickEnvelope_sgmpsgsamps (a : Ay) : a.tickEnvelope.sgmpsgsamps = a.sgmpsgsamps := by rw [tickEnvelope_frame]
@[simp] theorem appendSample_reg (a : Ay) (x : Sample) : (a.appendSample x).reg = a.reg := rfl
@[simp] theorem appendSample_ayidx (a : Ay) (x : Sample) : (a.appendSample x).ayidx = a.ayidx := rfl
@[simp] theorem appendSample_tcnt (a : Ay) (x : Sample) : (a.appendSample x).tcnt = a.tcnt := rfl
@[simp] theorem appendSample_sign (a : Ay) (x : Sample) : (a.appendSample x).sign = a.sign := rfl
@[simp] theorem appendSample_ncnt (a : Ay) (x : Sample) : (a.appendSample x).ncnt = a.ncnt := rfl
@[simp] theorem appendSample_nshift (a : Ay) (x : Sample) : (a.appendSample x).nshift = a.nshift := rfl
@[simp] theorem appendSample_ecnt (a : Ay) (x : Sample) : (a.appendSample x).ecnt = a.ecnt := rfl
@[simp] theorem appendSample_evol (a : Ay) (x : Sample) : (a.appendSample x).evol = a.evol := rfl
@[simp] theorem appendSample_estep (a : Ay) (x : Sample) : (a.appendSample x).estep = a.estep := rfl
@[simp] theorem appendSample_eseg (a : Ay) (x : Sample) : (a.appendSample x).eseg = a.eseg := rfl
@[simp] theorem appendSample_aybuf (a : Ay) (x : Sample) : (a.appendSample x).aybuf = a.aybuf ++ [x] := rfl
@[simp] theorem appendSample_sgmpsgsamps (a : Ay) (x : Sample) : (a.appendSample x).sgmpsgsamps = a.sgmpsgsamps + 1 := rfl
@[simp] theorem appendSample_mixed (a : Ay) (x : Sample) : (a.appendSample x).mixed = a.mixed := rfl

@[simp] theorem tick_reg (a : Ay) : a.tick.reg = a.reg := by simp [tick, tickGenerators]
@[simp] theorem tick_ayidx (a : Ay) : a.tick.ayidx = a.ayidx := by simp [tick, tickGenerators]
@[simp] theorem tick_sgmpsgsamps (a : Ay) : a.tick.sgmpsgsamps = a.sgmpsgsamps + 1 := by simp [tick, tickGenerators]
@[simp] theorem tick_aybuf (a : Ay) : a.tick.aybuf = a.aybuf ++ [a.tick.mixed] := by simp [tick, tickGenerators]

/-- The tone counters after a tick (R161). -/
theorem tick_tcnt (a : Ay) (i : Fin 3) :
    a.tick.tcnt[i] = if a.tperiod i ≤ a.tcnt[i] + 1 then 0 else a.tcnt[i] + 1 := by
  rw [tick]; unfold tickGenerators
  fin_cases i <;> simp [tickTone_tcnt]

/-- The tone signs after a tick (R161). -/
theorem tick_sign (a : Ay) (i : Fin 3) :
    a.tick.sign[i] = if a.tperiod i ≤ a.tcnt[i] + 1 then !a.sign[i] else a.sign[i] := by
  rw [tick]; unfold tickGenerators
  fin_cases i <;> simp [tickTone_sign, tickTone_tcnt]

/-- The noise generator after a tick (R161). -/
theorem tick_ncnt (a : Ay) : a.tick.ncnt = if a.nperiod <<< 1 ≤ a.ncnt + 1 then 0 else a.ncnt + 1 := by
  simp only [tick, tickGenerators, appendSample_ncnt, tickEnvelope_ncnt]
  rw [tickNoise]; simp only [nperiod, tickTone_reg, tickTone_ncnt]; split <;> simp [*]

theorem tick_nshift (a : Ay) : a.tick.nshift = if a.nperiod <<< 1 ≤ a.ncnt + 1 then noiseShift a.nshift else a.nshift := by
  simp only [tick, tickGenerators, appendSample_nshift, tickEnvelope_nshift]
  rw [tickNoise]; simp only [nperiod, tickTone_reg, tickTone_ncnt, tickTone_nshift]; split <;> simp [*]

/-- An envelope step reads nothing of the AY but the registers and its own three elements. -/
theorem envStep_congr {a b : Ay} (h1 : a.reg = b.reg) (h2 : a.evol = b.evol) (h3 : a.estep = b.estep) (h4 : a.eseg = b.eseg) :
    a.envStep.evol = b.envStep.evol ∧ a.envStep.estep = b.envStep.estep ∧ a.envStep.eseg = b.envStep.eseg := by
  simp only [envStep, envMove, nextSegment, envReset, shape, attack, h1, h2, h3, h4]
  split <;> exact ⟨rfl, rfl, rfl⟩

/-- The envelope after a tick (R161). -/
theorem tick_envelope (a : Ay) :
    (a.tick.ecnt = if a.eperiod <<< 1 ≤ a.ecnt + 1 then 0 else a.ecnt + 1) ∧
    (a.tick.evol = if a.eperiod <<< 1 ≤ a.ecnt + 1 then a.envStep.evol else a.evol) ∧
    (a.tick.estep = if a.eperiod <<< 1 ≤ a.ecnt + 1 then a.envStep.estep else a.estep) ∧
    (a.tick.eseg = if a.eperiod <<< 1 ≤ a.ecnt + 1 then a.envStep.eseg else a.eseg) := by
  simp only [tick, tickGenerators, appendSample_ecnt, appendSample_evol, appendSample_estep, appendSample_eseg]
  generalize hb : (((a.tickTone 0).tickTone 1).tickTone 2).tickNoise = b
  have h1 : b.reg = a.reg := by rw [← hb]; simp
  have h2 : b.evol = a.evol := by rw [← hb]; simp
  have h3 : b.estep = a.estep := by rw [← hb]; simp
  have h4 : b.eseg = a.eseg := by rw [← hb]; simp
  have h5 : b.ecnt = a.ecnt := by rw [← hb]; simp
  have hc := @envStep_congr { b with ecnt := 0 } a h1 h2 h3 h4
  rw [tickEnvelope]; simp only [eperiod, h1, h5]
  by_cases h : (a.reg[11].toNat ||| a.reg[12].toNat <<< 8) <<< 1 ≤ a.ecnt + 1
  · simp only [h, if_true]
    rw [h1] at hc
    exact ⟨by rw [envStep_frame], hc⟩
  · simp only [h, if_false]
    exact ⟨trivial, h2, h3, h4⟩

end Ay

/-- A tick with room, and one without (R127). -/
theorem snTick_room {s : State} (h : s.sn.snbuf.length < s.cfg.psgBufCap) : snTick s = .next (s.setSn s.sn.tick) := if_pos h
theorem snTick_full {s : State} (h : ¬ s.sn.snbuf.length < s.cfg.psgBufCap) : snTick s = .fault .psgBufferFull := if_neg h
theorem ayTick_room {s : State} (h : s.ay.aybuf.length < s.cfg.psgBufCap) : ayTick s = .next (s.setAy s.ay.tick) := if_pos h
theorem ayTick_full {s : State} (h : ¬ s.ay.aybuf.length < s.cfg.psgBufCap) : ayTick s = .fault .psgBufferFull := if_neg h

theorem snTick_next {s t : State} (h : snTick s = .next t) : t = s.setSn s.sn.tick := by
  unfold snTick at h; split at h
  · injection h with h; exact h.symm
  · cases h

theorem ayTick_next {s t : State} (h : ayTick s = .next t) : t = s.setAy s.ay.tick := by
  unfold ayTick at h; split at h
  · injection h with h; exact h.symm
  · cases h

end Sys2Proof.Machine
end

