-- ==== Sys2Proof/Laws/Scheduler.lean ====
section
/-! SUPPORT. What the shared operations of the scheduler do, said once: sequencing, the PSG clock's loop, a bus operation, a CPU step
and a CPU slice. -/

namespace Sys2Proof.Machine

theorem State.eq_of_fields {s t : State} (h1 : s.vdp = t.vdp) (h2 : s.sn = t.sn) (h3 : s.ay = t.ay) (h4 : s.sched = t.sched)
    (h5 : s.cfg = t.cfg) (h6 : s.env = t.env) : s = t := by
  cases s; cases t; simp_all

section Sequencing

variable {σ τ : Type}

@[simp] theorem andThen_next (s : σ) (k : σ → Result τ) : andThen (.next s) k = k s := rfl
@[simp] theorem andThen_fault (f : Fault) (k : σ → Result τ) : andThen (.fault f) k = .fault f := rfl
@[simp] theorem andThen_refused (f : Refusal) (k : σ → Result τ) : andThen (.refused f) k = .refused f := rfl

/-- A sequence answers next exactly when both of its parts do. -/
theorem andThen_eq_next {r : Result σ} {k : σ → Result τ} {t : τ} :
    andThen r k = .next t ↔ ∃ s, r = .next s ∧ k s = .next t := by
  cases r <;> simp

end Sequencing

/-- One round of the PSG clock with room in both buffers, in the state's own updates (45_mixer_scheduler.md R292). -/
theorem psgTicks_succ_room {n : Nat} {s : State} (h1 : s.sn.snbuf.length < s.cfg.psgBufCap)
    (h2 : s.ay.aybuf.length < s.cfg.psgBufCap) :
    psgTicks (n + 1) s =
      psgTicks n (((s.setSched { s.sched with psgcycs := s.sched.psgcycs - 16 }).setSn s.sn.tick).setAy s.ay.tick) := by
  rw [psgTicks]
  generalize hu : s.setSched { s.sched with psgcycs := s.sched.psgcycs - Config.psgDivider } = u
  have e1 : u.sn = s.sn := by rw [← hu, State.setSched_sn]
  have e2 : u.ay = s.ay := by rw [← hu, State.setSched_ay]
  have e3 : u.cfg = s.cfg := by rw [← hu, State.setSched_cfg]
  rw [snTick_room (by rw [e1, e3]; exact h1), andThen_next, e1]
  generalize hw : u.setSn s.sn.tick = w
  have f1 : w.ay = s.ay := by rw [← hw, State.setSn_ay, e2]
  have f2 : w.cfg = s.cfg := by rw [← hw, State.setSn_cfg, e3]
  rw [ayTick_room (by rw [f1, f2]; exact h2), andThen_next, f1, ← hw, ← hu]
  rfl

/-- `n` rounds of the PSG clock with room for `n` samples in both buffers (R292). -/
theorem psgTicks_room (n : Nat) (s : State) (h1 : s.sn.snbuf.length + n ≤ s.cfg.psgBufCap)
    (h2 : s.ay.aybuf.length + n ≤ s.cfg.psgBufCap) :
    psgTicks n s = .next (((s.setSched { s.sched with psgcycs := s.sched.psgcycs - 16 * n }).setSn (Sn.tick^[n] s.sn)).setAy
      (Ay.tick^[n] s.ay)) := by
  induction n generalizing s with
  | zero => rfl
  | succ n ih =>
    rw [psgTicks_succ_room (by omega) (by omega)]
    generalize hw : ((s.setSched { s.sched with psgcycs := s.sched.psgcycs - 16 }).setSn s.sn.tick).setAy s.ay.tick = w
    have e1 : w.vdp = s.vdp := by rw [← hw]; simp only [State.setAy_vdp, State.setSn_vdp, State.setSched_vdp]
    have e2 : w.sn = s.sn.tick := by rw [← hw]; simp only [State.setAy_sn, State.setSn_sn]
    have e3 : w.ay = s.ay.tick := by rw [← hw]; simp only [State.setAy_ay]
    have e4 : w.sched = { s.sched with psgcycs := s.sched.psgcycs - 16 } := by
      rw [← hw]; simp only [State.setAy_sched, State.setSn_sched, State.setSched_sched]
    have e5 : w.cfg = s.cfg := by rw [← hw]; simp only [State.setAy_cfg, State.setSn_cfg, State.setSched_cfg]
    have e6 : w.env = s.env := by rw [← hw]; simp only [State.setAy_env, State.setSn_env, State.setSched_env]
    have l1 : w.sn.snbuf.length = s.sn.snbuf.length + 1 := by rw [e2, Sn.tick_snbuf, List.length_append]; rfl
    have l2 : w.ay.aybuf.length = s.ay.aybuf.length + 1 := by rw [e3, Ay.tick_aybuf, List.length_append]; rfl
    rw [ih w (by rw [l1, e5]; omega) (by rw [l2, e5]; omega), Function.iterate_succ_apply, Function.iterate_succ_apply, ← e2, ← e3]
    congr 1
    apply State.eq_of_fields <;>
      simp only [State.setAy_vdp, State.setSn_vdp, State.setSched_vdp, State.setAy_sn, State.setSn_sn, State.setAy_ay,
        State.setAy_sched, State.setSn_sched, State.setSched_sched, State.setAy_cfg, State.setSn_cfg, State.setSched_cfg,
        State.setAy_env, State.setSn_env, State.setSched_env, e1, e4, e5, e6]
    rw [show s.sched.psgcycs - 16 - 16 * n = s.sched.psgcycs - 16 * (n + 1) by omega]

/-- Whatever the buffers hold, rounds of the PSG clock that complete are these (R292). -/
theorem psgTicks_next {n : Nat} {s t : State} (h : psgTicks n s = .next t) :
    t = ((s.setSched { s.sched with psgcycs := s.sched.psgcycs - 16 * n }).setSn (Sn.tick^[n] s.sn)).setAy (Ay.tick^[n] s.ay) := by
  suffices hr : s.sn.snbuf.length + n ≤ s.cfg.psgBufCap ∧ s.ay.aybuf.length + n ≤ s.cfg.psgBufCap ∨ n = 0 by
    rcases hr with ⟨h1, h2⟩ | rfl
    · rw [psgTicks_room n s h1 h2] at h; injection h with h; exact h.symm
    · injection h with h; exact h.symm
  induction n generalizing s with
  | zero => exact .inr rfl
  | succ n ih =>
    left
    have hh := h
    rw [psgTicks] at h
    obtain ⟨u, hu, h⟩ := andThen_eq_next.1 h
    obtain ⟨w, hw, h⟩ := andThen_eq_next.1 h
    have r1 : s.sn.snbuf.length < s.cfg.psgBufCap := by
      by_contra hc
      rw [snTick_full (by rw [State.setSched_sn, State.setSched_cfg]; exact hc)] at hu; cases hu
    have hu := snTick_next hu
    rw [State.setSched_sn] at hu
    have u1 : u.ay = s.ay := by rw [hu, State.setSn_ay, State.setSched_ay]
    have u2 : u.cfg = s.cfg := by rw [hu, State.setSn_cfg, State.setSched_cfg]
    have u3 : u.sn = s.sn.tick := by rw [hu, State.setSn_sn]
    have r2 : s.ay.aybuf.length < s.cfg.psgBufCap := by
      by_contra hc
      rw [ayTick_full (by rw [u1, u2]; exact hc)] at hw; cases hw
    have hw := ayTick_next hw
    have w1 : w.sn.snbuf.length = s.sn.snbuf.length + 1 := by
      rw [hw, State.setAy_sn, u3, Sn.tick_snbuf, List.length_append]; rfl
    have w2 : w.ay.aybuf.length = s.ay.aybuf.length + 1 := by
      rw [hw, State.setAy_ay, u1, Ay.tick_aybuf, List.length_append]; rfl
    have w3 : w.cfg = s.cfg := by rw [hw, State.setAy_cfg, u2]
    rcases ih h with ⟨h1, h2⟩ | rfl
    · rw [w1, w3] at h1; rw [w2, w3] at h2; omega
    · omega

end Sys2Proof.Machine
end

