-- ==== Sys2Proof/Laws/Vdp.lean ====
section
/-! SUPPORT. What the shared operations of the VDP do, said once: the register write, the line step's two parts, and the pixels of a
painted row. -/

namespace Sys2Proof.Machine

/-- VDP_REG_WR as one update: the register, and the NMI where one is raised (42_vdp_ports.md R197). -/
theorem vdpRegWr_eq (r : Fin 8) (x : Byte) (s : State) :
    vdpRegWr r x s = (s.setVdp (s.vdp.storeReg r x)).setEnv { s.env with
      events := (bif regWriteRaises r s.vdp (s.vdp.storeReg r x) then [.nmi .regWrite] else []) ++ s.env.events } := by
  unfold vdpRegWr; dsimp only; split <;> rename_i h <;> (first | rw [h] | rw [Bool.not_eq_true] at h; rw [h]) <;> rfl

/-- The register write's condition for an NMI: R1 written, GINT from 0 to 1, INT set (R197). -/
theorem regWriteRaises_iff (r : Fin 8) (x : Byte) (v : Vdp) :
    regWriteRaises r v (v.storeReg r x) = true ↔
      r = 1 ∧ v.reg[1].getLsbD 5 = false ∧ x.getLsbD 5 = true ∧ v.status.getLsbD 7 = true := by
  by_cases h : r = 1
  · subst h
    have hm : ∀ x : Byte, (x &&& vdpMask[(1 : Fin 8)]).getLsbD 5 = x.getLsbD 5 := by decide +kernel
    have hg : (v.storeReg 1 x).reg[1].getLsbD 5 = x.getLsbD 5 := by
      have : (v.storeReg 1 x).reg[1] = x &&& vdpMask[(1 : Fin 8)] := by simp [Vdp.storeReg]
      rw [this, hm]
    have hs : (v.storeReg 1 x).status = v.status := rfl
    simp only [regWriteRaises, Vdp.gint, Status.int, hg, hs, Bool.and_eq_true, decide_eq_true_eq, Bool.not_eq_true',
      true_and, and_assoc]
  · simp [regWriteRaises, h]

theorem storeReg_same (v : Vdp) (r : Fin 8) (x : Byte) : (v.storeReg r x).reg[r] = x &&& vdpMask[r] := by simp [Vdp.storeReg]

theorem storeReg_other (v : Vdp) {r q : Fin 8} (x : Byte) (h : q ≠ r) : (v.storeReg r x).reg[q] = v.reg[q] := by
  have : r.val ≠ q.val := fun h' => h (Fin.ext h'.symm)
  simp [Vdp.storeReg, this]

/-- A visible line is below every region's last line. -/
theorem visible_lt_numScanlines (s : State) : 192 < s.numScanlines := by
  unfold State.numScanlines Region.numScanlines; cases s.cfg.region <;> decide

/-- What painting a row keeps, and the row. -/
theorem paintRow_fb (v : Vdp) (row : Row) (r : Nat) (hr : r < 208) :
    (v.paintRow row).fb[r] = if r = v.line + 8 then row else v.fb[r] := by
  simp only [Vdp.paintRow, Config.overscan, Vector.getElem_setIfInBounds]
  by_cases h : r = v.line + 8
  · simp [h]
  · simp [h, Ne.symm h]

/-- The painting part of a line step: it changes the frame buffer, the sprite bits of the status, and the count of free draws
(43_vdp_render.md R221). -/
theorem renderLine_frame (s : State) :
    renderLine s = (s.setVdp { s.vdp with fb := (renderLine s).vdp.fb, status := (renderLine s).vdp.status }).setEnv
      { s.env with undocDraws := (renderLine s).env.undocDraws } := by
  unfold renderLine Vdp.renderEnabled
  split
  · split
    · dsimp only; split <;> rfl
    · rfl
  · rfl

@[simp] theorem renderLine_vram (s : State) : (renderLine s).vdp.vram = s.vdp.vram := by rw [renderLine_frame]; rfl
@[simp] theorem renderLine_vaddr (s : State) : (renderLine s).vdp.vaddr = s.vdp.vaddr := by rw [renderLine_frame]; rfl
@[simp] theorem renderLine_dlatch (s : State) : (renderLine s).vdp.dlatch = s.vdp.dlatch := by rw [renderLine_frame]; rfl
@[simp] theorem renderLine_wlatch (s : State) : (renderLine s).vdp.wlatch = s.vdp.wlatch := by rw [renderLine_frame]; rfl
@[simp] theorem renderLine_reg (s : State) : (renderLine s).vdp.reg = s.vdp.reg := by rw [renderLine_frame]; rfl
@[simp] theorem renderLine_line (s : State) : (renderLine s).vdp.line = s.vdp.line := by rw [renderLine_frame]; rfl
@[simp] theorem renderLine_sn (s : State) : (renderLine s).sn = s.sn := by rw [renderLine_frame]; rfl
@[simp] theorem renderLine_ay (s : State) : (renderLine s).ay = s.ay := by rw [renderLine_frame]; rfl
@[simp] theorem renderLine_sched (s : State) : (renderLine s).sched = s.sched := by rw [renderLine_frame]; rfl
@[simp] theorem renderLine_cfg (s : State) : (renderLine s).cfg = s.cfg := by rw [renderLine_frame]; rfl
@[simp] theorem renderLine_events (s : State) : (renderLine s).env.events = s.env.events := by rw [renderLine_frame]; rfl

/-- VBLANK as one update (43_vdp_render.md R222). -/
theorem vblank_eq (s : State) : vblank s = (s.setVdp { s.vdp with status := Status.setInt s.vdp.status }).setEnv
    { s.env with events := (bif s.vdp.vblankRaises then [.nmi .vblank] else []) ++ s.env.events } := by
  unfold vblank; dsimp only; cases s.vdp.vblankRaises <;> rfl

/-- The advance as one update (R221 to R223). -/
theorem advanceLine_eq (s : State) : advanceLine s = (s.setVdp { s.vdp with
      line := if s.vdp.line + 1 = s.numScanlines then 0 else s.vdp.line + 1
      status := if s.vdp.line = 191 then Status.setInt s.vdp.status else s.vdp.status
      fb := if s.vdp.line + 1 = s.numScanlines then
          Vector.ofFn fun r => if r.val < 8 ∨ 200 ≤ r.val then s.vdp.backdropRow else s.vdp.fb[r]
        else s.vdp.fb }).setEnv
    { s.env with events := (bif decide (s.vdp.line = 191) && s.vdp.vblankRaises then [.nmi .vblank] else []) ++ s.env.events } := by
  have hn := visible_lt_numScanlines s
  have hc : (s.vdp.line + 1 = Config.visibleLines) = (s.vdp.line = 191) := by simp [Config.visibleLines]
  unfold advanceLine
  dsimp only
  simp only [hc, vblank_eq]
  by_cases h1 : s.vdp.line = 191
  · have h2 : ¬ s.vdp.line + 1 = s.numScanlines := by omega
    rw [if_pos h1, if_pos h1, decide_eq_true h1, Bool.true_and, if_neg h2, if_neg h2, if_neg h2]; rfl
  · rw [if_neg h1, if_neg h1, decide_eq_false h1, Bool.false_and]
    by_cases h2 : s.vdp.line + 1 = s.numScanlines
    · rw [if_pos h2, if_pos h2, if_pos h2]; rfl
    · rw [if_neg h2, if_neg h2, if_neg h2]; rfl

/-- The backdrop rule as the statements write it (43_vdp_render.md R225). -/
theorem col_eq (v : Vdp) (c : Colour) : v.col c = shownColour v c := rfl

/-- The pixel of an overscanned row (43_vdp_render.md R226). -/
theorem overscanRow_getElem (v : Vdp) (pixel : Fin 256 → Colour) (c : Nat) (hc : c < 272) :
    (v.overscanRow pixel)[c] = if h : 8 ≤ c ∧ c < 264 then pixel ⟨c - 8, by omega⟩ else v.bd := by
  simp [Vdp.overscanRow]

/-- The pixel of a Text row (R230). -/
theorem textRow_getElem (v : Vdp) (origin c : Nat) (hc : c < 272) :
    (v.textRow origin)[c] = if origin ≤ c ∧ c < origin + 240 then v.textPixel (c - origin) else v.bd := by
  simp [Vdp.textRow]

/-- The pixel of a composited row (44_vdp_sprites.md R268). -/
theorem composite_getElem (b : SpriteBuf) (row : Row) (c : Nat) (hc : c < 272) :
    (b.composite row)[c] = if h : 8 ≤ c ∧ c < 264 then overBackground b.linebuf[c - 8] row[c] else row[c] := by
  simp only [SpriteBuf.composite, Vector.getElem_ofFn, overBackground]
  by_cases h : 8 ≤ c ∧ c < 264
  · simp only [h, and_self, dite_true]
    by_cases h0 : b.linebuf[c - 8] = 0 <;> simp [h0]
  · simp [h]

/-- The row that an enabled visible line paints: the background, with the sprites over it unless the mode is Text (R221). -/
theorem renderLine_row (s : State) (h1 : s.vdp.line < 192) (h2 : s.vdp.bl = true) :
    (renderLine s).vdp.fb = (s.vdp.paintRow (if s.vdp.mode = .text then s.vdp.bgRow s.cfg s.env.undocDraws
      else (SpriteBuf.pass s.vdp).composite (s.vdp.bgRow s.cfg s.env.undocDraws))).fb ∧
    (renderLine s).vdp.status = (if s.vdp.mode = .text then s.vdp.status else (SpriteBuf.pass s.vdp).status) ∧
    (renderLine s).env.undocDraws = s.env.undocDraws + s.vdp.isUndocumented.toNat := by
  unfold renderLine Vdp.renderEnabled
  rw [if_pos (show s.vdp.line < Config.visibleLines from h1), if_pos h2]
  dsimp only
  split <;> exact ⟨rfl, rfl, rfl⟩

/-- The row that a disabled visible line paints (R224). -/
theorem renderLine_blank (s : State) (h1 : s.vdp.line < 192) (h2 : s.vdp.bl = false) :
    renderLine s = s.setVdp (s.vdp.paintRow s.vdp.backdropRow) := by
  unfold renderLine; rw [if_pos (show s.vdp.line < Config.visibleLines from h1), if_neg (by simp [h2])]

/-- A line past the visible ones paints nothing (R221, decision D18). -/
theorem renderLine_hidden (s : State) (h1 : 192 ≤ s.vdp.line) : renderLine s = s := by
  unfold renderLine; rw [if_neg (by simp only [Config.visibleLines]; omega)]

end Sys2Proof.Machine
end

