-- ==== Sys2Proof/Laws/Bus.lean ====
section
/-! SUPPORT. What a bus operation and a CPU step keep, said once for every operation (45_mixer_scheduler.md R294, R299). -/

namespace Sys2Proof.Machine

/-- What no bus operation changes: the current line, the frame buffer, the generators' samples, the credit, the parameters, and of
the inputs and outputs all but the events. -/
structure BusFrame (s t : State) : Prop where
  line : t.vdp.line = s.vdp.line
  fb : t.vdp.fb = s.vdp.fb
  cnt : t.sn.cnt = s.sn.cnt
  out : t.sn.out = s.sn.out
  snbuf : t.sn.snbuf = s.sn.snbuf
  psgsamps : t.sn.psgsamps = s.sn.psgsamps
  tcnt : t.ay.tcnt = s.ay.tcnt
  ncnt : t.ay.ncnt = s.ay.ncnt
  aybuf : t.ay.aybuf = s.ay.aybuf
  sgmpsgsamps : t.ay.sgmpsgsamps = s.ay.sgmpsgsamps
  sched : t.sched = { s.sched with stepPenalty := t.sched.stepPenalty }
  cfg : t.cfg = s.cfg
  env : t.env = { s.env with events := t.env.events }

theorem BusFrame.refl (s : State) : BusFrame s s := ⟨rfl, rfl, rfl, rfl, rfl, rfl, rfl, rfl, rfl, rfl, rfl, rfl, rfl⟩

theorem BusFrame.trans {s t u : State} (h : BusFrame s t) (k : BusFrame t u) : BusFrame s u where
  line := k.line.trans h.line
  fb := k.fb.trans h.fb
  cnt := k.cnt.trans h.cnt
  out := k.out.trans h.out
  snbuf := k.snbuf.trans h.snbuf
  psgsamps := k.psgsamps.trans h.psgsamps
  tcnt := k.tcnt.trans h.tcnt
  ncnt := k.ncnt.trans h.ncnt
  aybuf := k.aybuf.trans h.aybuf
  sgmpsgsamps := k.sgmpsgsamps.trans h.sgmpsgsamps
  sched := by rw [k.sched, h.sched]
  cfg := k.cfg.trans h.cfg
  env := by rw [k.env, h.env]

theorem BusFrame.setVdp (s : State) {v : Vdp} (h1 : v.line = s.vdp.line) (h2 : v.fb = s.vdp.fb) : BusFrame s (s.setVdp v) :=
  ⟨h1, h2, rfl, rfl, rfl, rfl, rfl, rfl, rfl, rfl, rfl, rfl, rfl⟩

theorem BusFrame.setVdp_events (s : State) {v : Vdp} (ev : List Event) (h1 : v.line = s.vdp.line) (h2 : v.fb = s.vdp.fb) :
    BusFrame s ((s.setVdp v).setEnv { s.env with events := ev }) :=
  ⟨h1, h2, rfl, rfl, rfl, rfl, rfl, rfl, rfl, rfl, rfl, rfl, rfl⟩

theorem BusFrame.setSn_charge (s : State) {c : Sn} (h1 : c.cnt = s.sn.cnt) (h2 : c.out = s.sn.out) (h3 : c.snbuf = s.sn.snbuf)
    (h4 : c.psgsamps = s.sn.psgsamps) : BusFrame s (s.chargeSnWrite.setSn c) :=
  ⟨rfl, rfl, h1, h2, h3, h4, rfl, rfl, rfl, rfl, rfl, rfl, rfl⟩

theorem BusFrame.setAy (s : State) {a : Ay} (h1 : a.tcnt = s.ay.tcnt) (h2 : a.ncnt = s.ay.ncnt) (h3 : a.aybuf = s.ay.aybuf)
    (h4 : a.sgmpsgsamps = s.ay.sgmpsgsamps) : BusFrame s (s.setAy a) :=
  ⟨rfl, rfl, rfl, rfl, rfl, rfl, h1, h2, h3, h4, rfl, rfl, rfl⟩

theorem BusFrame.giveRead (s : State) (p x : Byte) : BusFrame s (s.giveRead p x) :=
  ⟨rfl, rfl, rfl, rfl, rfl, rfl, rfl, rfl, rfl, rfl, rfl, rfl, rfl⟩

theorem BusFrame.vdpRegWr (r : Fin 8) (x : Byte) (s : State) : BusFrame s (vdpRegWr r x s) := by
  rw [vdpRegWr_eq]; exact .setVdp_events s _ rfl rfl

theorem Sn.data_frame (c : Sn) (d : BitVec 7) : (c.data d).cnt = c.cnt ∧ (c.data d).out = c.out ∧ (c.data d).snbuf = c.snbuf ∧
    (c.data d).psgsamps = c.psgsamps ∧ (c.data d).freqff = c.freqff := by
  unfold Sn.data
  split
  · exact ⟨rfl, rfl, rfl, rfl, rfl⟩
  · split <;> exact ⟨rfl, rfl, rfl, rfl, rfl⟩

/-- AY.WR is the store to the selected register, and the envelope's restart where that is the shape (41_ay8910.md R151). -/
theorem ayWr_eq (v : Byte) (s : State) : ayWr v s =
    if s.ay.ayidx = 13 then s.setAy (s.ay.storeReg 13 v).restartEnvelope else s.setAy (s.ay.storeReg s.ay.ayidx.toFin v) := by
  unfold ayWr
  have hx : s.ay.ayidx.toNat < 16 := s.ay.ayidx.isLt
  have hi : s.ay.ayidx = BitVec.ofNat 4 s.ay.ayidx.toNat := by simp
  generalize s.ay.ayidx.toNat = k at hx hi ⊢
  rw [hi]
  interval_cases k <;> rfl

theorem BusFrame.ayWr (v : Byte) (s : State) : BusFrame s (ayWr v s) := by
  rw [ayWr_eq]; split <;> exact .setAy s rfl rfl rfl rfl

/-- No port operation changes what `BusFrame` names. -/
theorem portEffect_frame (i : Instr) (s : State) : BusFrame s (portEffect i s) := by
  cases i with
  | vdpCtrl1 _ v => exact .setVdp s rfl rfl
  | vdpReadSetup _ a => exact .setVdp s rfl rfl
  | vdpWriteSetup _ a => exact .setVdp s rfl rfl
  | vdpRegForm _ a => exact .trans (.setVdp s (v := s.vdp.assemble a) rfl rfl) (.vdpRegWr _ _ _)
  | vdpC0 _ a =>
    unfold portEffect vdpC0; dsimp only
    split
    · exact .setVdp s rfl rfl
    · exact .trans (.setVdp s (v := s.vdp.assemble a) rfl rfl) (.vdpRegWr _ _ _)
  | vdpDataWr _ v => exact .setVdp s rfl rfl
  | vdpDataRd port => exact .trans (.setVdp s (v := { s.vdp.refill with wlatch := false }) rfl rfl) (.giveRead _ _ _)
  | vdpStatusRd port =>
    exact .trans (.setVdp s (v := { s.vdp with status := Status.afterRead s.vdp.status, wlatch := false }) rfl rfl) (.giveRead _ _ _)
  | snLatchTone0 _ d => exact .setSn_charge s rfl rfl rfl rfl
  | snLatchTone1 _ d => exact .setSn_charge s rfl rfl rfl rfl
  | snLatchTone2 _ d => exact .setSn_charge s rfl rfl rfl rfl
  | snLatchNoise _ d => exact .setSn_charge s rfl rfl rfl rfl
  | snLatchAtt _ c d => exact .setSn_charge s rfl rfl rfl rfl
  | snData _ d =>
    obtain ⟨h1, h2, h3, h4, -⟩ := s.sn.data_frame d
    exact .setSn_charge s h1 h2 h3 h4
  | ayAddr v => exact .setAy s rfl rfl rfl rfl
  | ayWr v => exact .ayWr v s
  | ayWrTone r v => exact .setAy s rfl rfl rfl rfl
  | ayWrNoise v => exact .setAy s rfl rfl rfl rfl
  | ayWrMixer v => exact .setAy s rfl rfl rfl rfl
  | ayWrAmp i v => exact .setAy s rfl rfl rfl rfl
  | ayWrEper i v => exact .setAy s rfl rfl rfl rfl
  | ayWrShape v => exact .setAy s rfl rfl rfl rfl
  | ayWrIo i v => exact .setAy s rfl rfl rfl rfl
  | ayRd => exact .giveRead _ _ _
  | frameExec => exact .refl s
  | vdpLine => exact .refl s
  | psgClock _ => exact .refl s
  | snTick => exact .refl s
  | ayTick => exact .refl s
  | mix => exact .refl s
  | resampleAndDeliver => exact .refl s

theorem busOp_frame (w : PortWord) (s : State) : BusFrame s (busOp w s) := by
  unfold busOp; split
  · exact portEffect_frame _ _
  · exact .refl s

/-- A property of a state that every bus operation keeps holds after the bus operations of a CPU step. -/
theorem runCpu_induct {P : State → Prop} (hP : ∀ w s, P s → P (busOp w s)) (p : CpuProg) (s : State) (h : P s) :
    P (runCpu p s).1 := by
  induction p generalizing s with
  | done base => exact h
  | bus w next ih => exact ih _ _ (hP w s h)

theorem runCpu_frame (p : CpuProg) (s : State) : BusFrame s (runCpu p s).1 :=
  runCpu_induct (P := BusFrame s) (fun w t h => h.trans (busOp_frame w t)) p s (.refl s)

/-- A bus operation only adds to what the block has given the outside, and ends no CPU step. -/
theorem busOp_events (w : PortWord) (s : State) :
    ∃ ev, (busOp w s).env.events = ev ++ s.env.events ∧ reportedCycles ev = 0 := by
  have hreg : ∀ r x t, t.env.events = s.env.events →
      ∃ ev, (vdpRegWr r x t).env.events = ev ++ s.env.events ∧ reportedCycles ev = 0 := by
    intro r x t h
    rw [vdpRegWr_eq, ← h]
    exact ⟨_, rfl, by cases regWriteRaises r t.vdp (t.vdp.storeReg r x) <;> rfl⟩
  have hread : ∀ port x, ∃ ev, Event.readReturned port x :: s.env.events = ev ++ s.env.events ∧ reportedCycles ev = 0 :=
    fun port x => ⟨[.readReturned port x], rfl, rfl⟩
  unfold busOp
  split
  · rename_i i _
    cases i with
    | vdpRegForm _ a => exact hreg _ _ _ rfl
    | vdpC0 _ a =>
      unfold portEffect vdpC0; dsimp only
      split
      · exact ⟨[], rfl, rfl⟩
      · exact hreg _ _ _ rfl
    | vdpDataRd port => exact hread _ _
    | vdpStatusRd port => exact hread _ _
    | ayRd => exact hread _ _
    | ayWr v => exact ⟨[], by unfold portEffect; dsimp only; rw [ayWr_eq]; split <;> rfl, rfl⟩
    | _ => exact ⟨[], rfl, rfl⟩
  · exact ⟨[], rfl, rfl⟩

/-- What a bus operation has given the outside. -/
theorem newEvents_of_append {s t : State} {ev : List Event} (h : t.env.events = ev ++ s.env.events) : newEvents s t = ev := by
  unfold newEvents; rw [h]; simp

theorem reportedCycles_append (ev ew : List Event) : reportedCycles (ev ++ ew) = reportedCycles ev + reportedCycles ew := by
  unfold reportedCycles; rw [List.map_append, List.sum_append]

theorem runCpu_events (p : CpuProg) (s : State) :
    ∃ ev, (runCpu p s).1.env.events = ev ++ s.env.events ∧ reportedCycles ev = 0 :=
  runCpu_induct (P := fun t => ∃ ev, t.env.events = ev ++ s.env.events ∧ reportedCycles ev = 0)
    (fun w t ⟨ev, h1, h2⟩ => by
      obtain ⟨ew, k1, k2⟩ := busOp_events w t
      exact ⟨ew ++ ev, by rw [k1, h1, List.append_assoc], by rw [reportedCycles_append, k2, h2]⟩)
    p s ⟨[], rfl, rfl⟩

/-- A CPU step given as data is its bus operations in their order (45_mixer_scheduler.md R294, R299). -/
theorem runCpu_prog (ops : List PortWord) (base : PNat) (s : State) :
    runCpu (CpuStep.prog ops base) s = (ops.foldl (fun t w => busOp w t) s, base) := by
  induction ops generalizing s with
  | nil => rfl
  | cons w ops ih => exact ih (busOp w s)

/-- What a CPU step keeps: as a bus operation, but that it takes its step from the given ones. -/
structure CpuFrame (s t : State) : Prop where
  line : t.vdp.line = s.vdp.line
  cnt : t.sn.cnt = s.sn.cnt
  out : t.sn.out = s.sn.out
  snbuf : t.sn.snbuf = s.sn.snbuf
  psgsamps : t.sn.psgsamps = s.sn.psgsamps
  tcnt : t.ay.tcnt = s.ay.tcnt
  ncnt : t.ay.ncnt = s.ay.ncnt
  aybuf : t.ay.aybuf = s.ay.aybuf
  sgmpsgsamps : t.ay.sgmpsgsamps = s.ay.sgmpsgsamps
  sched : t.sched = { s.sched with stepPenalty := t.sched.stepPenalty }
  cfg : t.cfg = s.cfg
  env : t.env = { s.env with events := t.env.events, cpuSteps := (nextCpuStep s).2 }

theorem cpuStep_frame (s : State) : CpuFrame s (cpuStep s).1 := by
  have h := runCpu_frame (nextCpuStep s).1 (beginCpuStep s)
  unfold cpuStep
  dsimp only
  generalize (runCpu (nextCpuStep s).1 (beginCpuStep s)).1 = t at h ⊢
  refine ⟨?_, ?_, ?_, ?_, ?_, ?_, ?_, ?_, ?_, ?_, ?_, ?_⟩
  · exact h.line
  · exact h.cnt
  · exact h.out
  · exact h.snbuf
  · exact h.psgsamps
  · exact h.tcnt
  · exact h.ncnt
  · exact h.aybuf
  · exact h.sgmpsgsamps
  · rw [State.emit_sched, h.sched]; rfl
  · exact h.cfg
  · rw [State.emit_env, h.env]; rfl

/-- What a CPU step gives the outside reports its cycles, once (45_mixer_scheduler.md R293). -/
theorem cpuStep_events (s : State) :
    ∃ ev, (cpuStep s).1.env.events = ev ++ s.env.events ∧ reportedCycles ev = (cpuStep s).2 := by
  obtain ⟨ev, h1, h2⟩ := runCpu_events (nextCpuStep s).1 (beginCpuStep s)
  have h0 : (beginCpuStep s).env.events = s.env.events := rfl
  unfold cpuStep
  dsimp only
  generalize runCpu (nextCpuStep s).1 (beginCpuStep s) = r at h1 ⊢
  refine ⟨.cpuStepDone r.2 r.1.sched.stepPenalty :: ev, ?_, ?_⟩
  · rw [State.emit_env, h1, h0]; rfl
  · rw [← List.singleton_append, reportedCycles_append, h2]; rfl

/-- A CPU step takes at least one cycle (45_mixer_scheduler.md R293, R299). -/
theorem cpuStep_pos (s : State) : 1 ≤ (cpuStep s).2 := by
  unfold cpuStep
  have := (runCpu (nextCpuStep s).1 (beginCpuStep s)).2.pos
  exact Nat.le_trans this (Nat.le_add_right _ _)

end Sys2Proof.Machine
end

