-- ==== Sys2Proof/Laws/Encoding.lean ====
section
/-! SUPPORT. The fields of a port word and of the bytes the decoder splits, said once. -/

namespace Sys2Proof

@[simp] theorem port_writeWord (p v : Byte) : (writeWord p v).port = p := by
  apply BitVec.eq_of_toNat_eq
  have hp := p.isLt; have hv := v.isLt
  simp only [PortWord.port, writeWord, BitVec.extractLsb'_toNat, BitVec.toNat_append, Nat.shiftRight_eq_div_pow, Nat.shiftLeft_eq,
    ← Nat.two_pow_add_eq_or_of_lt hp, ← Nat.two_pow_add_eq_or_of_lt hv, Nat.mul_comm _ (2 ^ 8)]
  omega

@[simp] theorem data_writeWord (p v : Byte) : (writeWord p v).data = v := by
  apply BitVec.eq_of_toNat_eq
  have hp := p.isLt; have hv := v.isLt
  simp only [PortWord.data, writeWord, BitVec.extractLsb'_toNat, BitVec.toNat_append, Nat.shiftRight_eq_div_pow, Nat.shiftLeft_eq,
    ← Nat.two_pow_add_eq_or_of_lt hp, ← Nat.two_pow_add_eq_or_of_lt hv, Nat.mul_comm _ (2 ^ 8)]
  omega

@[simp] theorem isWrite_writeWord (p v : Byte) : (writeWord p v).isWrite = true := by
  simp only [PortWord.isWrite, writeWord, BitVec.getLsbD_append]; rfl

@[simp] theorem port_readWord (p : Byte) : (readWord p).port = p := by
  apply BitVec.eq_of_toNat_eq
  have hp := p.isLt; have hv := (0#8).isLt
  simp only [PortWord.port, readWord, BitVec.extractLsb'_toNat, BitVec.toNat_append, Nat.shiftRight_eq_div_pow, Nat.shiftLeft_eq,
    ← Nat.two_pow_add_eq_or_of_lt hp, ← Nat.two_pow_add_eq_or_of_lt hv, Nat.mul_comm _ (2 ^ 8)]
  omega

@[simp] theorem isWrite_readWord (p : Byte) : (readWord p).isWrite = false := by
  simp only [PortWord.isWrite, readWord, BitVec.getLsbD_append]; rfl

/-- A write word is decoded from its port and its byte (30_encoding.md R90). -/
theorem decodeWord_writeWord (l : Latches) (p v : Byte) : decodeWord l (writeWord p v) = decodeWrite l p v := by
  simp [decodeWord]

/-- A read word is decoded from its port (R90). -/
theorem decodeWord_readWord (l : Latches) (p : Byte) : decodeWord l (readWord p) = decodeRead p := by simp [decodeWord]

/-- The three bands as the decoder tests them. -/
theorem controlPort_band {p : Byte} (h : isVdpControlPort p = true) : p &&& 0xE0 = 0xA0 ∧ p.getLsbD 0 = true := by
  revert p; decide +kernel

theorem dataPort_band {p : Byte} (h : isVdpDataPort p = true) : p &&& 0xE0 = 0xA0 ∧ p.getLsbD 0 = false := by
  revert p; decide +kernel

theorem snPort_band {p : Byte} (h : isSnPort p = true) : ¬ p &&& 0xE0 = 0xA0 ∧ p &&& 0xE0 = 0xE0 := by
  revert p; decide +kernel

/-- The bits of a second control byte (R91). -/
theorem control2_bits (k : BitVec 2) (a : BitVec 6) : (k ++ a).getLsbD 7 = k.getLsbD 1 ∧ (k ++ a).getLsbD 6 = k.getLsbD 0 ∧
    (k ++ a).extractLsb' 0 6 = a := by
  revert k a; decide +kernel

/-- Every byte is a second control byte of some form (R91). -/
theorem control2_split (v : Byte) : v = v.extractLsb' 6 2 ++ v.extractLsb' 0 6 := by revert v; decide +kernel

/-- The bits of an SN LATCH byte (R95). -/
theorem latch_bits (k d : BitVec 4) : (k ++ d).getLsbD 7 = k.getLsbD 3 ∧ (k ++ d).getLsbD 6 = k.getLsbD 2 ∧
    (k ++ d).getLsbD 5 = k.getLsbD 1 ∧ (k ++ d).getLsbD 4 = k.getLsbD 0 ∧ (k ++ d).extractLsb' 0 4 = d := by
  revert k d; decide +kernel

/-- A masked write word is the write word of the masked port and byte. -/
theorem writeWord_and (p v q x : Byte) : writeWord p v &&& writeWord q x = writeWord (p &&& q) (v &&& x) := by
  show (1#1 ++ p ++ v : BitVec (1 + 8 + 8)) &&& (1#1 ++ q ++ x : BitVec (1 + 8 + 8)) = 1#1 ++ (p &&& q) ++ (v &&& x)
  rw [BitVec.and_append, BitVec.and_append]; rfl

/-- A masked read word is the read word of the masked port. -/
theorem readWord_and (p q : Byte) : readWord p &&& writeWord q 0 = readWord (p &&& q) := by
  show (0#1 ++ p ++ 0#8 : BitVec (1 + 8 + 8)) &&& (1#1 ++ q ++ 0#8 : BitVec (1 + 8 + 8)) = 0#1 ++ (p &&& q) ++ 0#8
  rw [BitVec.and_append, BitVec.and_append]; rfl

end Sys2Proof
end

