-- ==== Sys2Proof/Laws/Frame.lean ====
section
/-! SUPPORT. The induction principles of the scheduler's loops, packaged once: a property that each part keeps holds at the end. -/

namespace Sys2Proof.Machine

/-- PSG_CLOCK that completes, as one update (45_mixer_scheduler.md R292). -/
theorem psgClock_next {c : Nat} {s t : State} (h : psgClock c s = .next t) :
    t = ((s.setSched { s.sched with psgcycs := (s.sched.psgcycs + c) % 16 }).setSn
      (Sn.tick^[(s.sched.psgcycs + c) / 16] s.sn)).setAy (Ay.tick^[(s.sched.psgcycs + c) / 16] s.ay) := by
  have hd : (s.sched.psgcycs + c) / Config.psgDivider = (s.sched.psgcycs + c) / 16 := rfl
  have h := psgTicks_next h
  rw [hd, State.setSched_sched, State.setSched_sn, State.setSched_ay] at h
  rw [h]
  apply State.eq_of_fields <;>
    simp only [State.setAy_vdp, State.setSn_vdp, State.setSched_vdp, State.setAy_sn, State.setSn_sn, State.setAy_ay,
      State.setAy_sched, State.setSn_sched, State.setSched_sched, State.setAy_cfg, State.setSn_cfg, State.setSched_cfg,
      State.setAy_env, State.setSn_env, State.setSched_env]
  rw [show s.sched.psgcycs + c - 16 * ((s.sched.psgcycs + c) / 16) = (s.sched.psgcycs + c) % 16 by omega]

/-- A CPU slice keeps what every CPU step, followed by its PSG clock, keeps (45_mixer_scheduler.md R290). -/
theorem cpuSlice_induct {P : State → Int → Prop}
    (hstep : ∀ s c u, P s c → psgClock (cpuStep s).2 (cpuStep s).1 = .next u → P u (c + (cpuStep s).2))
    {fuel : Nat} {req c : Int} {s t : State} {n : Int} (h : cpuSlice fuel req c s = .next (t, n)) (h0 : P s c) : P t n := by
  induction fuel generalizing c s with
  | zero => simp only [cpuSlice, Host.Outcome.next.injEq, Prod.mk.injEq] at h; obtain ⟨rfl, rfl⟩ := h; exact h0
  | succ fuel ih =>
    rw [cpuSlice] at h
    split at h
    · obtain ⟨u, hu, h⟩ := andThen_eq_next.1 h
      exact ih h (hstep s c u h0 hu)
    · simp only [Host.Outcome.next.injEq, Prod.mk.injEq] at h; obtain ⟨rfl, rfl⟩ := h; exact h0

/-- A slice with enough steps in hand ends with its budget met (R291). -/
theorem cpuSlice_meets {fuel : Nat} {req c : Int} {s t : State} {n : Int} (hf : req - c ≤ fuel)
    (h : cpuSlice fuel req c s = .next (t, n)) : req ≤ n := by
  induction fuel generalizing c s with
  | zero => simp only [cpuSlice, Host.Outcome.next.injEq, Prod.mk.injEq] at h; obtain ⟨rfl, rfl⟩ := h; omega
  | succ fuel ih =>
    rw [cpuSlice] at h
    split at h
    · obtain ⟨u, hu, h⟩ := andThen_eq_next.1 h
      have := cpuStep_pos s
      exact ih (by omega) h
    · simp only [Host.Outcome.next.injEq, Prod.mk.injEq] at h; obtain ⟨rfl, rfl⟩ := h; omega

/-- A scanline that completes is a slice, the new credit, and a line step (R290). -/
theorem scanline_next {s t : State} (h : scanline s = .next t) :
    ∃ u n, cpuSlice (lineBudget s).toNat (lineBudget s) 0 s = .next (u, n) ∧
      t = vdpLine (u.setSched { u.sched with extcycs := (n - lineBudget s).toNat }) := by
  obtain ⟨⟨u, n⟩, hu, h⟩ := andThen_eq_next.1 h
  injection h with h
  exact ⟨u, n, hu, h.symm⟩

/-- What the scanlines of a frame keep. -/
theorem scanlines_induct {P : State → Prop}
    (hcpu : ∀ s u, P s → psgClock (cpuStep s).2 (cpuStep s).1 = .next u → P u)
    (hline : ∀ s e, P s → P (vdpLine (s.setSched { s.sched with extcycs := e })))
    {n : Nat} {s t : State} (h : scanlines n s = .next t) (h0 : P s) : P t := by
  induction n generalizing s with
  | zero => injection h with h; exact h ▸ h0
  | succ n ih =>
    obtain ⟨u, hu, h⟩ := andThen_eq_next.1 h
    obtain ⟨w, m, hw, rfl⟩ := scanline_next hu
    exact ih h (hline _ _ (cpuSlice_induct (P := fun s _ => P s) (fun s _ u hs hu => hcpu s u hs hu) hw h0))

/-- A frame that completes is its scanlines on emptied buffers, the mix and the delivery (R290). -/
theorem frameExec_next {s t : State} (h : frameExec s = .next t) :
    ∃ u, scanlines s.numScanlines (clearBuffers s) = .next u ∧ t = resampleAndDeliver (mix u) := by
  obtain ⟨u, hu, h⟩ := andThen_eq_next.1 h
  injection h with h
  exact ⟨u, hu, h.symm⟩

end Sys2Proof.Machine
end

