-- ==== Sys2Proof/Laws/Memory.lean ====
section
/-! SUPPORT. The laws of VRAM: a read after a write, and that every operation keeps the canonical form. -/

namespace Sys2Proof.Machine.Memory

@[simp] theorem read_nil (a : Nat) : read [] a = unlisted := rfl

/-- An address below every listed one reads as unlisted. -/
theorem read_below {m : Memory} {lo a : Nat} (h : wfFrom lo m = true) (ha : a < lo) : read m a = unlisted := by
  induction m generalizing lo with
  | nil => rfl
  | cons cell rest ih =>
    obtain ⟨b, x⟩ := cell
    simp only [wfFrom, Bool.and_eq_true, decide_eq_true_eq] at h
    have hne : a ≠ b := by omega
    simpa [read, hne] using ih h.2 (by omega)

theorem wfFrom_mono {m : Memory} {lo lo' : Nat} (h : wfFrom lo m = true) (hle : lo' ≤ lo) : wfFrom lo' m = true := by
  cases m with
  | nil => rfl
  | cons cell rest =>
    simp only [wfFrom, Bool.and_eq_true, decide_eq_true_eq] at h ⊢
    exact ⟨⟨⟨by omega, h.1.1.2⟩, h.1.2⟩, h.2⟩

/-- Reading the address just written gives the byte written. -/
theorem read_write_same {m : Memory} {lo a : Nat} (h : wfFrom lo m = true) (v : Byte) : read (write m a v) a = v := by
  induction m generalizing lo with
  | nil => by_cases hv : v = unlisted <;> simp [write, read, hv]
  | cons cell rest ih =>
    obtain ⟨b, x⟩ := cell
    simp only [wfFrom, Bool.and_eq_true, decide_eq_true_eq] at h
    by_cases hlt : a < b
    · have hne : a ≠ b := by omega
      by_cases hv : v = unlisted
      · simpa [write, read, hlt, hv, hne] using read_below h.2 (by omega)
      · simp [write, read, hlt, hv]
    · by_cases heq : a = b
      · subst heq
        by_cases hv : v = unlisted
        · simpa [write, hv] using read_below h.2 (Nat.lt_succ_self a)
        · simp [write, read, hv]
      · simpa [write, read, hlt, heq] using ih h.2

/-- A write leaves every other address alone, in any memory. -/
theorem read_write_other {m : Memory} {a c : Nat} (v : Byte) (hc : c ≠ a) : read (write m a v) c = read m c := by
  induction m with
  | nil => by_cases hv : v = unlisted <;> simp [write, read, hv, hc]
  | cons cell rest ih =>
    obtain ⟨b, x⟩ := cell
    by_cases hlt : a < b
    · by_cases hv : v = unlisted <;> simp [write, read, hlt, hv, hc]
    · by_cases heq : a = b
      · subst heq
        by_cases hv : v = unlisted <;> simp [write, read, hv, hc]
      · simp [write, read, hlt, heq, ih]

/-- A write keeps the canonical form. -/
theorem wfFrom_write {m : Memory} {lo a : Nat} (h : wfFrom lo m = true) (hlo : lo ≤ a) (ha : a < Config.vramSize)
    (v : Byte) : wfFrom lo (write m a v) = true := by
  induction m generalizing lo with
  | nil => by_cases hv : v = unlisted <;> simp [write, wfFrom, hv, hlo, ha]
  | cons cell rest ih =>
    obtain ⟨b, x⟩ := cell
    have h' := h
    simp only [wfFrom, Bool.and_eq_true, decide_eq_true_eq] at h'
    by_cases hlt : a < b
    · by_cases hv : v = unlisted
      · simpa [write, hlt, hv] using h
      · simp [write, hlt, hv, wfFrom, hlo, ha, h'.1.1.2, h'.1.2, h'.2, Nat.succ_le_of_lt hlt]
    · by_cases heq : a = b
      · subst heq
        by_cases hv : v = unlisted
        · simpa [write, hv] using wfFrom_mono h'.2 (by omega : lo ≤ a + 1)
        · simp [write, hv, wfFrom, hlo, ha, h'.2]
      · simp [write, hlt, heq, wfFrom, h'.1.1.1, h'.1.1.2, h'.1.2, ih h'.2 (by omega)]

theorem wf_write {m : Memory} {a : Nat} (h : m.wf = true) (ha : a < Config.vramSize) (v : Byte) :
    (write m a v).wf = true := wfFrom_write h (Nat.zero_le a) ha v

/-- A read of a canonical memory after a write. -/
theorem read_write {m : Memory} (h : m.wf = true) (a c : Nat) (v : Byte) :
    read (write m a v) c = if c = a then v else read m c := by
  by_cases hc : c = a
  · subst hc; simpa using read_write_same h v
  · simpa [hc] using read_write_other v hc

theorem wfFrom_ofBytesFrom (bytes : List Byte) (a : Nat) : wfFrom a (ofBytesFrom a bytes) = true := by
  induction bytes generalizing a with
  | nil => rfl
  | cons x rest ih =>
    by_cases ha : a < Config.vramSize
    · by_cases hx : x = unlisted
      · simpa [ofBytesFrom, ha, hx] using wfFrom_mono (ih (a + 1)) (Nat.le_succ a)
      · simp [ofBytesFrom, ha, hx, wfFrom, ih (a + 1)]
    · simp [ofBytesFrom, ha, wfFrom]

/-- The memory of a power-on is canonical. -/
theorem wf_ofBytes (bytes : List Byte) : (ofBytes bytes).wf = true := wfFrom_ofBytesFrom bytes 0

end Sys2Proof.Machine.Memory
end

