-- ==== Sys2Proof/Laws/PerInstr.lean ====
section
/-! SUPPORT. The family TableRow: an operation's word lies in its row of spec/opcode_table.json. -/

namespace Sys2Proof.Laws.TableRow

/-- The mask and the match of an operation's row; an internal operation's row has none. -/
def row : Instr → Option (PortWord × PortWord)
  | .vdpCtrl1 _ _ => some (0x1E100, 0x1A100)
  | .vdpReadSetup _ _ => some (0x1E1C0, 0x1A100)
  | .vdpWriteSetup _ _ => some (0x1E1C0, 0x1A140)
  | .vdpRegForm _ _ => some (0x1E1C0, 0x1A180)
  | .vdpC0 _ _ => some (0x1E1C0, 0x1A1C0)
  | .vdpDataWr _ _ => some (0x1E100, 0x1A000)
  | .vdpDataRd _ => some (0x1E100, 0x0A000)
  | .vdpStatusRd _ => some (0x1E100, 0x0A100)
  | .snLatchTone0 _ _ => some (0x1E0F0, 0x1E080)
  | .snLatchTone1 _ _ => some (0x1E0F0, 0x1E0A0)
  | .snLatchTone2 _ _ => some (0x1E0F0, 0x1E0C0)
  | .snLatchNoise _ _ => some (0x1E0F0, 0x1E0E0)
  | .snLatchAtt _ _ _ => some (0x1E090, 0x1E090)
  | .snData _ _ => some (0x1E080, 0x1E000)
  | .ayAddr _ => some (0x1FF00, 0x15000)
  | .ayWr _ => some (0x1FF00, 0x15100)
  | .ayWrTone _ _ => some (0x1FF00, 0x15100)
  | .ayWrNoise _ => some (0x1FF00, 0x15100)
  | .ayWrMixer _ => some (0x1FF00, 0x15100)
  | .ayWrAmp _ _ => some (0x1FF00, 0x15100)
  | .ayWrEper _ _ => some (0x1FF00, 0x15100)
  | .ayWrShape _ => some (0x1FF00, 0x15100)
  | .ayWrIo _ _ => some (0x1FF00, 0x15100)
  | .ayRd => some (0x1FF00, 0x05200)
  | .frameExec => none
  | .vdpLine => none
  | .psgClock _ => none
  | .snTick => none
  | .ayTick => none
  | .mix => none
  | .resampleAndDeliver => none

/-- A well-formed operation of a row with a word has a word, and that word meets the row's mask and match; one of a row without a word
has none. -/
def Statement (i : Instr) : Prop :=
  match row i with
  | some (mask, value) => i.wellFormed = true → ∃ w, encode i = some w ∧ w &&& mask = value
  | none => encode i = none

/-- A write word meets a row when its port and its byte meet the row's parts. -/
theorem write_row {p v pm x q y : Byte} {mask value : PortWord} (hm : mask = writeWord pm x) (hp : p &&& pm = q) (hv : v &&& x = y)
    (h : writeWord q y = value) : writeWord p v &&& mask = value := by
  rw [hm, writeWord_and, hp, hv, h]

theorem control_row {p : Byte} (h : isVdpControlPort p = true) : p &&& 0xE1 = 0xA1 := by
  simpa [isVdpControlPort] using h

theorem data_row {p : Byte} (h : isVdpDataPort p = true) : p &&& 0xE1 = 0xA0 := by simpa [isVdpDataPort] using h

theorem sn_row {p : Byte} (h : isSnPort p = true) : p &&& 0xE0 = 0xE0 := by simpa [isSnPort] using h

theorem form_row (k : BitVec 2) (a : BitVec 6) : (k ++ a) &&& 0xC0#8 = k ++ 0#6 := by revert k a; decide +kernel

theorem latch_row (k d : BitVec 4) : (k ++ d) &&& 0xF0#8 = k ++ 0#4 := by revert k d; decide +kernel

theorem att_row (c : BitVec 2) (d : BitVec 4) : (1#1 ++ c ++ 1#1 ++ d) &&& 0x90#8 = 0x90#8 := by revert c d; decide +kernel

theorem dataByte_row (d : BitVec 7) : (0#1 ++ d) &&& 0x80#8 = 0#8 := by revert d; decide +kernel

theorem byte_row (v : Byte) : v &&& 0 = 0 := BitVec.and_zero

theorem vdpCtrl1 (port : Byte) (v : Byte) : Statement (.vdpCtrl1 port v) :=
  fun h => ⟨_, rfl, write_row (pm := 0xE1) (x := 0) rfl (control_row h) (byte_row v) rfl⟩

theorem vdpReadSetup (port : Byte) (a : BitVec 6) : Statement (.vdpReadSetup port a) :=
  fun h => ⟨_, rfl, write_row (pm := 0xE1) (x := 0xC0) rfl (control_row h) (form_row _ a) rfl⟩

theorem vdpWriteSetup (port : Byte) (a : BitVec 6) : Statement (.vdpWriteSetup port a) :=
  fun h => ⟨_, rfl, write_row (pm := 0xE1) (x := 0xC0) rfl (control_row h) (form_row _ a) rfl⟩

theorem vdpRegForm (port : Byte) (a : BitVec 6) : Statement (.vdpRegForm port a) :=
  fun h => ⟨_, rfl, write_row (pm := 0xE1) (x := 0xC0) rfl (control_row h) (form_row _ a) rfl⟩

theorem vdpC0 (port : Byte) (a : BitVec 6) : Statement (.vdpC0 port a) :=
  fun h => ⟨_, rfl, write_row (pm := 0xE1) (x := 0xC0) rfl (control_row h) (form_row _ a) rfl⟩

theorem vdpDataWr (port : Byte) (v : Byte) : Statement (.vdpDataWr port v) :=
  fun h => ⟨_, rfl, write_row (pm := 0xE1) (x := 0) rfl (data_row h) (byte_row v) rfl⟩

theorem vdpDataRd (port : Byte) : Statement (.vdpDataRd port) :=
  fun h => ⟨_, rfl, (readWord_and port 0xE1).trans (by rw [data_row h]; rfl)⟩

theorem vdpStatusRd (port : Byte) : Statement (.vdpStatusRd port) :=
  fun h => ⟨_, rfl, (readWord_and port 0xE1).trans (by rw [control_row h]; rfl)⟩

theorem snLatchTone0 (port : Byte) (d : BitVec 4) : Statement (.snLatchTone0 port d) :=
  fun h => ⟨_, rfl, write_row (pm := 0xE0) (x := 0xF0) rfl (sn_row h) (latch_row _ d) rfl⟩

theorem snLatchTone1 (port : Byte) (d : BitVec 4) : Statement (.snLatchTone1 port d) :=
  fun h => ⟨_, rfl, write_row (pm := 0xE0) (x := 0xF0) rfl (sn_row h) (latch_row _ d) rfl⟩

theorem snLatchTone2 (port : Byte) (d : BitVec 4) : Statement (.snLatchTone2 port d) :=
  fun h => ⟨_, rfl, write_row (pm := 0xE0) (x := 0xF0) rfl (sn_row h) (latch_row _ d) rfl⟩

theorem snLatchNoise (port : Byte) (d : BitVec 4) : Statement (.snLatchNoise port d) :=
  fun h => ⟨_, rfl, write_row (pm := 0xE0) (x := 0xF0) rfl (sn_row h) (latch_row _ d) rfl⟩

theorem snLatchAtt (port : Byte) (c : BitVec 2) (d : BitVec 4) : Statement (.snLatchAtt port c d) :=
  fun h => ⟨_, rfl, write_row (pm := 0xE0) (x := 0x90) rfl (sn_row h) (att_row c d) rfl⟩

theorem snData (port : Byte) (d : BitVec 7) : Statement (.snData port d) :=
  fun h => ⟨_, rfl, write_row (pm := 0xE0) (x := 0x80) rfl (sn_row h) (dataByte_row d) rfl⟩

theorem ayAddr (v : Byte) : Statement (.ayAddr v) :=
  fun _ => ⟨_, rfl, write_row (pm := 0xFF) (x := 0) rfl rfl (byte_row v) rfl⟩

theorem ayWr (v : Byte) : Statement (.ayWr v) :=
  fun _ => ⟨_, rfl, write_row (pm := 0xFF) (x := 0) rfl rfl (byte_row v) rfl⟩

theorem ayWrTone (r : Fin 6) (v : Byte) : Statement (.ayWrTone r v) :=
  fun _ => ⟨_, rfl, write_row (pm := 0xFF) (x := 0) rfl rfl (byte_row v) rfl⟩

theorem ayWrNoise (v : Byte) : Statement (.ayWrNoise v) :=
  fun _ => ⟨_, rfl, write_row (pm := 0xFF) (x := 0) rfl rfl (byte_row v) rfl⟩

theorem ayWrMixer (v : Byte) : Statement (.ayWrMixer v) :=
  fun _ => ⟨_, rfl, write_row (pm := 0xFF) (x := 0) rfl rfl (byte_row v) rfl⟩

theorem ayWrAmp (i : Fin 3) (v : Byte) : Statement (.ayWrAmp i v) :=
  fun _ => ⟨_, rfl, write_row (pm := 0xFF) (x := 0) rfl rfl (byte_row v) rfl⟩

theorem ayWrEper (i : Fin 2) (v : Byte) : Statement (.ayWrEper i v) :=
  fun _ => ⟨_, rfl, write_row (pm := 0xFF) (x := 0) rfl rfl (byte_row v) rfl⟩

theorem ayWrShape (v : Byte) : Statement (.ayWrShape v) :=
  fun _ => ⟨_, rfl, write_row (pm := 0xFF) (x := 0) rfl rfl (byte_row v) rfl⟩

theorem ayWrIo (i : Fin 2) (v : Byte) : Statement (.ayWrIo i v) :=
  fun _ => ⟨_, rfl, write_row (pm := 0xFF) (x := 0) rfl rfl (byte_row v) rfl⟩

theorem ayRd : Statement .ayRd :=
  fun _ => ⟨_, rfl, rfl⟩

theorem frameExec : Statement .frameExec :=
  rfl

theorem vdpLine : Statement .vdpLine :=
  rfl

theorem psgClock (c : Nat) : Statement (.psgClock c) :=
  rfl

theorem snTick : Statement .snTick :=
  rfl

theorem ayTick : Statement .ayTick :=
  rfl

theorem mix : Statement .mix :=
  rfl

theorem resampleAndDeliver : Statement .resampleAndDeliver :=
  rfl

end Sys2Proof.Laws.TableRow
end

