-- ==== Sys2Proof/Laws/Sprites.lean ====
section
/-! SUPPORT. What the status fields' updates and the sprite pass's shared operations, marking a column and drawing a sprite, do. -/

namespace Sys2Proof.Machine

namespace Status

theorem setCollision_bit5 (x : Byte) : (setCollision x).getLsbD 5 = true := by revert x; decide +kernel
theorem setCollision_bit6 (x : Byte) : (setCollision x).getLsbD 6 = x.getLsbD 6 := by revert x; decide +kernel
theorem setCollision_bit7 (x : Byte) : (setCollision x).getLsbD 7 = x.getLsbD 7 := by revert x; decide +kernel
theorem setCollision_fs (x : Byte) : (setCollision x).toNat % 32 = x.toNat % 32 := by revert x; decide +kernel
theorem setFifth_bit5 (x : Byte) : (setFifth x).getLsbD 5 = x.getLsbD 5 := by revert x; decide +kernel
theorem setFifth_bit6 (x : Byte) : (setFifth x).getLsbD 6 = true := by revert x; decide +kernel
theorem setFifth_bit7 (x : Byte) : (setFifth x).getLsbD 7 = x.getLsbD 7 := by revert x; decide +kernel
theorem setFifth_fs (x : Byte) : (setFifth x).toNat % 32 = x.toNat % 32 := by revert x; decide +kernel
theorem setInt_bit7 (x : Byte) : (setInt x).getLsbD 7 = true := by revert x; decide +kernel
theorem setInt_low (x : Byte) : setInt x &&& 0x7F = x &&& 0x7F := by revert x; decide +kernel

/-- Writing FS keeps bits 7..5 (44_vdp_sprites.md R270). -/
theorem setFs_high (x : Byte) (n k : Nat) (h : 5 ≤ k) (h2 : k < 8) : (setFs x n).getLsbD k = x.getLsbD k := by
  unfold setFs
  have a : ∀ b : Byte, ∀ k : Fin 8, 5 ≤ k.val → (b &&& 0xE0).getLsbD k.val = b.getLsbD k.val := by decide +kernel
  have c : ∀ b : Byte, ∀ k : Fin 8, 5 ≤ k.val → (b &&& 0x1F).getLsbD k.val = false := by decide +kernel
  rw [BitVec.getLsbD_or, a _ ⟨k, h2⟩ h, c _ ⟨k, h2⟩ h]; simp

/-- Writing FS gives the index (R270). -/
theorem setFs_fs (x : Byte) (n : Nat) (h : n < 32) : (setFs x n).toNat % 32 = n := by
  have a : ∀ x : Byte, (x &&& 0xE0).toNat % 32 = 0 := by decide +kernel
  have b : ∀ n : Fin 32, (BitVec.ofNat 8 n.val &&& 0x1F).toNat = n.val := by decide
  unfold setFs
  rw [BitVec.toNat_or, b ⟨n, h⟩]
  obtain ⟨q, hq⟩ : ∃ q, (x &&& 0xE0).toNat = 2 ^ 5 * q := ⟨(x &&& 0xE0).toNat / 32, by have := a x; omega⟩
  rw [hq]
  have hd := Nat.two_pow_add_eq_or_of_lt (i := 5) (b := n) h q
  rw [← hd]; omega

end Status

namespace SpriteBuf

/-- Whether one of the first `m` columns of a sprite sets playfield column `x`. -/
def hitBelow (v : Vdp) (e : SpriteEntry) (m x : Nat) : Bool :=
  (List.range m).any fun p => v.spriteBit e p && decide (e.left + p = x)

/-- A set pattern bit at column `xp`: off the line it is dropped, on a taken column it collides, else it takes the column (R267, R269). -/
theorem mark_spec (b : SpriteBuf) (c : Colour) (xp : Int) :
   (∀ x : Nat, (hx : x < 256) → (b.mark c xp).cbuf[x] = (b.cbuf[x] || decide (xp = x)) ∧ (b.mark c xp).linebuf[x] = if b.cbuf[x] = false ∧ xp = x then c else b.linebuf[x]) ∧
   ((b.mark c xp).status.getLsbD 5 = true ↔ b.status.getLsbD 5 = true ∨ ∃ x : Nat, ∃ hx : x < 256, xp = x ∧ b.cbuf[x] = true) ∧
   (b.mark c xp).status.getLsbD 6 = b.status.getLsbD 6 ∧ (b.mark c xp).status.toNat % 32 = b.status.toNat % 32 ∧ (b.mark c xp).count = b.count := by
  unfold mark
  by_cases h : 0 ≤ xp ∧ xp ≤ 255
  · obtain ⟨y, rfl⟩ : ∃ y : Nat, xp = y := ⟨xp.toNat, by omega⟩
    have hy : y < 256 := by omega
    rw [dif_pos h]
    simp only [Int.toNat_natCast]
    split
    · rename_i hc
      refine ⟨?_, ?_, Status.setCollision_bit6 _, Status.setCollision_fs _, rfl⟩
      · intro x hx
        by_cases hxy : y = x
        · subst hxy; simp [hc]
        · simp [hxy]
      · simp only [Status.setCollision_bit5, true_iff]; right; exact ⟨y, hy, rfl, hc⟩
    · rename_i hc
      refine ⟨?_, ?_, rfl, rfl, rfl⟩
      · intro x hx
        by_cases hxy : y = x
        · subst hxy; simp [hc]
        · simp [hxy]
      · constructor
        · exact fun h => .inl h
        · rintro (h | ⟨x, hx, h1, h2⟩)
          · exact h
          · have : y = x := by omega
            subst this; exact absurd h2 hc
  · rw [dif_neg h]
    refine ⟨?_, ?_, rfl, rfl, rfl⟩
    · intro x hx
      have : xp ≠ x := by omega
      simp [this]
    · constructor
      · exact fun h => .inl h
      · rintro (h | ⟨x, hx, h1, h2⟩)
        · exact h
        · omega

/-- What drawing a sprite that sets the columns `hit` in colour `c` does to the buffers (R262, R267, R269). -/
def DrawSpec (b : SpriteBuf) (hit : Nat → Bool) (c : Colour) (d : SpriteBuf) : Prop :=
   (∀ x, (hx : x < 256) → d.cbuf[x] = (b.cbuf[x] || hit x) ∧ d.linebuf[x] = if b.cbuf[x] = false ∧ hit x = true then c else b.linebuf[x]) ∧
   (d.status.getLsbD 5 = true ↔ b.status.getLsbD 5 = true ∨ ∃ x, ∃ hx : x < 256, hit x = true ∧ b.cbuf[x] = true) ∧
   d.status.getLsbD 6 = b.status.getLsbD 6 ∧ d.status.toNat % 32 = b.status.toNat % 32 ∧ d.count = b.count

/-- The first `m` columns of a sprite. -/
theorem drawColumns_spec (v : Vdp) (e : SpriteEntry) (b : SpriteBuf) (m : Nat) :
   DrawSpec b (hitBelow v e m) (loNibble e.colour) ((List.range m).foldl (drawColumn v e) b) := by
  induction m with
  | zero => simp [hitBelow, DrawSpec]
  | succ m ih =>
    simp only [List.range_succ, List.foldl_append, List.foldl_cons, List.foldl_nil] at ih ⊢
    have hs : ∀ x, hitBelow v e (m+1) x = (hitBelow v e m x || (v.spriteBit e m && decide (e.left + m = x))) := by
      intro x; simp [hitBelow, List.range_succ, List.any_append]
    have hnot : ∀ x : Nat, e.left + m = x → hitBelow v e m x = false := by
      intro x hx; simp only [hitBelow, List.any_eq_false, List.mem_range, Bool.and_eq_true, decide_eq_true_eq, not_and]
      intro p hp _; omega
    generalize (List.range m).foldl (drawColumn v e) b = d at ih ⊢
    obtain ⟨i1, i2, i3, i4, i5⟩ := ih
    unfold DrawSpec drawColumn
    split
    · rename_i hb
      obtain ⟨m1, m2, m3, m4, m5⟩ := mark_spec d (loNibble e.colour) (e.left + m)
      refine ⟨?_, ?_, m3.trans i3, m4.trans i4, m5.trans i5⟩
      · intro x hx
        obtain ⟨a1, a2⟩ := m1 x hx
        obtain ⟨c1, c2⟩ := i1 x hx
        rw [a1, a2, c1, c2, hs, hb]
        by_cases hx' : e.left + m = x
        · rw [hnot x hx']; simp [hx']
        · simp [hx']
      · rw [m2, i2]
        constructor
        · rintro ((h | ⟨x, hx, h1, h2⟩) | ⟨x, hx, h1, h2⟩)
          · exact .inl h
          · exact .inr ⟨x, hx, by rw [hs, h1]; rfl, h2⟩
          · rw [(i1 x hx).1, hnot x h1] at h2
            exact .inr ⟨x, hx, by rw [hs, hb]; simp [h1], by simpa using h2⟩
        · rintro (h | ⟨x, hx, h1, h2⟩)
          · exact .inl (.inl h)
          · rw [hs, hb] at h1
            simp only [Bool.true_and, Bool.or_eq_true, decide_eq_true_eq] at h1
            rcases h1 with h1 | h1
            · exact .inl (.inr ⟨x, hx, h1, h2⟩)
            · exact .inr ⟨x, hx, h1, by rw [(i1 x hx).1, h2]; rfl⟩
    · rename_i hb
      have hs' : ∀ x, hitBelow v e (m+1) x = hitBelow v e m x := by intro x; rw [hs]; simp [hb]
      simp only [hs']
      exact ⟨i1, i2, i3, i4, i5⟩

end SpriteBuf

/-! The geometry the rules give is the pass's. -/

theorem spriteSide_eq (v : Vdp) : v.spriteSize = spriteSide v := rfl

theorem spriteZoom_eq (v : Vdp) : spriteZoom v = 2 ^ v.spriteMag := by
  unfold spriteZoom Vdp.spriteMag
  generalize v.reg[1] = b
  revert b; decide +kernel

theorem spriteExt_eq (v : Vdp) : v.spriteExt = spriteSide v * spriteZoom v := by
  rw [spriteZoom_eq, Vdp.spriteExt, Nat.shiftLeft_eq, spriteSide_eq]

theorem tblSattr_eq (v : Vdp) : v.tblSattr = v.reg[5].toNat * 128 := Nat.shiftLeft_eq _ 7

theorem spriteByte_eq (v : Vdp) (n : Nat) :
    v.spriteEntry n = ⟨spriteByte v n 0, spriteByte v n 1, spriteByte v n 2, spriteByte v n 3⟩ := by
  unfold Vdp.spriteEntry spriteByte; rw [tblSattr_eq]; rfl

theorem spriteEntry_isEnd (v : Vdp) (n : Nat) : (v.spriteEntry n).isEnd = decide (spriteByte v n 0 = 208) := by
  rw [spriteByte_eq]; rfl

theorem spriteEntry_colour (v : Vdp) (n : Nat) : (v.spriteEntry n).colour = spriteByte v n 3 := by rw [spriteByte_eq]

theorem spriteEntry_left (v : Vdp) (n : Nat) : (v.spriteEntry n).left = spriteX v n := by
  rw [spriteByte_eq]
  unfold SpriteEntry.left SpriteEntry.ec spriteX
  split <;> simp

theorem spriteEntry_top (v : Vdp) (n : Nat) : (v.spriteEntry n).top = spriteY v n := by
  rw [spriteByte_eq]
  unfold SpriteEntry.top spriteY
  split <;> simp

theorem spriteEntry_covers (v : Vdp) (n : Nat) : (v.spriteEntry n).covers v.spriteExt v.line =
    decide (spriteY v n ≤ v.line ∧ (v.line : Int) < spriteY v n + (spriteSide v * spriteZoom v : Nat)) := by
  rw [SpriteEntry.covers, spriteEntry_top, spriteExt_eq, Bool.decide_and]

theorem spriteEntry_bit (v : Vdp) (n p : Nat) : v.spriteBit (v.spriteEntry n) p =
    (spritePattern v n (p / spriteZoom v)).getLsbD (7 - p / spriteZoom v % 8) := by
  have hname : v.spriteName (v.spriteEntry n) =
      if spriteSide v = 16 then (spriteByte v n 2).toNat / 4 * 4 else (spriteByte v n 2).toNat := by
    have h : ∀ b : Byte, (b &&& 0xFC).toNat = b.toNat / 4 * 4 := by decide +kernel
    rw [Vdp.spriteName, spriteByte_eq, h]; rfl
  unfold Vdp.spriteBit Vdp.spritePatAddr Vdp.spriteRow patternBit spritePattern
  rw [hname, spriteEntry_top, spriteZoom_eq, Nat.shiftRight_eq_div_pow, Nat.shiftRight_eq_div_pow,
    show v.tblSpgen = v.reg[6].toNat * 2048 from Nat.shiftLeft_eq _ 11]
  have h7 : ∀ k : Nat, k &&& 7 = k % 8 := fun k => Nat.and_two_pow_sub_one_eq_mod k 3
  dsimp only
  rw [h7]
  rfl

namespace SpriteBuf

/-- A whole sprite. -/
theorem draw_spec (v : Vdp) (n : Nat) (b : SpriteBuf) :
    DrawSpec b (spriteHits v n) ((spriteByte v n 3).extractLsb' 0 4) (draw v (v.spriteEntry n) b) := by
  have h := drawColumns_spec v (v.spriteEntry n) b v.spriteExt
  have e : hitBelow v (v.spriteEntry n) v.spriteExt = spriteHits v n := by
    funext x
    unfold hitBelow spriteHits
    simp only [spriteEntry_bit, spriteEntry_left, spriteExt_eq]
  rw [e, spriteEntry_colour] at h
  exact h

end SpriteBuf

end Sys2Proof.Machine
end

