-- ==== Sys2Proof/Tests/Slice0.lean ====
section
/-! SUPPORT. The model's own tests. Expected values are those of spec/95_test_vectors.md (V-…) or of the examples in the rules
(R…), or are worked by hand from the rule named. -/

namespace Sys2Proof.Tests

set_option Elab.async false

open Sys2Proof.Machine

/-- A field of the next state, if there is one. -/
def after {α : Type} (r : Result State) (f : State → α) : Option α :=
  match r with
  | .next s => some (f s)
  | .fault _ => none
  | .refused _ => none

/-- The state after reset with another VDP. -/
def withVdp (f : Vdp → Vdp) : State := State.reset.setVdp (f State.reset.vdp)

/-- The state after reset with another SN. -/
def withSn (f : Sn → Sn) : State := State.reset.setSn (f State.reset.sn)

/-- The state after reset with another AY. -/
def withAy (f : Ay → Ay) : State := State.reset.setAy (f State.reset.ay)

/-- Control registers 0 to 7. -/
def regs (r0 r1 r2 r3 r4 r5 r6 r7 : Byte) : Vector Byte 8 := #v[r0, r1, r2, r3, r4, r5, r6, r7]

/-- The first and second byte of a control pair. -/
def first : Latches := ⟨false, none⟩
def second : Latches := ⟨true, none⟩

/-! ## WellFormed: each check refuses an ill-formed term -/

theorem test_wf_refuses_even_control_port : (Instr.vdpCtrl1 0xBE 0).wellFormed = false := by decide
theorem test_wf_refuses_other_band_control_port : (Instr.vdpRegForm 0x9F 0).wellFormed = false := by decide
theorem test_wf_refuses_odd_data_port : (Instr.vdpDataRd 0xBF).wellFormed = false := by decide
theorem test_wf_refuses_low_sn_port : (Instr.snData 0xDF 0).wellFormed = false := by decide

/-! ## Decode: words written out from 30_encoding.md R90, R91, R95 and R97 -/

/-- V-E1, V-E2: dir 1, port 0xBF or 0xA1, data 0x05, first byte. -/
theorem test_decode_ctrl1 :
    decodeWord first 0b1_10111111_00000101 = .ok (.vdpCtrl1 0xBF 0x05) ∧
    decodeWord first 0b1_10100001_00000101 = .ok (.vdpCtrl1 0xA1 0x05) := by decide

/-- The four forms of a second byte: bits 7..6 = 00, 01, 10, 11. -/
theorem test_decode_second_bytes :
    decodeWord second 0b1_10111111_00_010000 = .ok (.vdpReadSetup 0xBF 0b010000) ∧
    decodeWord second 0b1_10111111_01_111111 = .ok (.vdpWriteSetup 0xBF 0b111111) ∧
    decodeWord second 0b1_10111111_10_000001 = .ok (.vdpRegForm 0xBF 0b000001) ∧
    decodeWord second 0b1_10111111_11_000101 = .ok (.vdpC0 0xBF 0b000101) := by decide

/-- V-E3, V-E4, V-E5. -/
theorem test_decode_vdp_data_and_reads :
    decodeWord first 0x1BE05 = .ok (.vdpDataWr 0xBE 0x05) ∧ decodeWord second 0x1A005 = .ok (.vdpDataWr 0xA0 0x05) ∧
    decodeWord first 0x0BF00 = .ok (.vdpStatusRd 0xBF) ∧ decodeWord first 0x0A300 = .ok (.vdpStatusRd 0xA3) ∧
    decodeWord first 0x0BE00 = .ok (.vdpDataRd 0xBE) := by decide

/-- V-E6 and the SN forms of R95: 1 cc 0 dddd, 1 11 0 dddd, 1 cc 1 dddd, 0 x dddddd. -/
theorem test_decode_sn :
    decodeWord first 0b1_11100000_1_00_0_1010 = .ok (.snLatchTone0 0xE0 0b1010) ∧
    decodeWord first 0b1_11111111_1_01_0_0101 = .ok (.snLatchTone1 0xFF 0b0101) ∧
    decodeWord first 0b1_11111111_1_10_0_0101 = .ok (.snLatchTone2 0xFF 0b0101) ∧
    decodeWord first 0b1_11111111_1_11_0_0101 = .ok (.snLatchNoise 0xFF 0b0101) ∧
    decodeWord second 0b1_11111111_1_11_1_1111 = .ok (.snLatchAtt 0xFF 3 0b1111) ∧
    decodeWord first 0b1_11100000_1_00_1_0000 = .ok (.snLatchAtt 0xE0 0 0) ∧
    decodeWord first 0b1_11111111_0_1_111111 = .ok (.snData 0xFF 0b1111111) := by decide

/-- V-E8. -/
theorem test_decode_ay :
    decodeWord first 0x15007 = .ok (.ayAddr 0x07) ∧ decodeWord first 0x151FF = .ok (.ayWr 0xFF) ∧
    decodeWord second 0x05200 = .ok .ayRd := by decide

/-- The rows that refine AY.WR, by the selected register. -/
theorem test_decode_ay_refined :
    decodeWord ⟨false, some 5⟩ 0x151AA = .ok (.ayWrTone 5 0xAA) ∧ decodeWord ⟨false, some 6⟩ 0x151AA = .ok (.ayWrNoise 0xAA) ∧
    decodeWord ⟨false, some 7⟩ 0x151AA = .ok (.ayWrMixer 0xAA) ∧ decodeWord ⟨false, some 8⟩ 0x151AA = .ok (.ayWrAmp 0 0xAA) ∧
    decodeWord ⟨false, some 12⟩ 0x151AA = .ok (.ayWrEper 1 0xAA) ∧ decodeWord ⟨false, some 13⟩ 0x151AA = .ok (.ayWrShape 0xAA) ∧
    decodeWord ⟨false, some 14⟩ 0x151AA = .ok (.ayWrIo 0 0xAA) ∧ decodeWord ⟨false, some 15⟩ 0x151AA = .ok (.ayWrIo 1 0xAA) := by
  decide

/-- V-E7, V-E9, V-E10: outside the block. -/
theorem test_decode_outside :
    decodeWord first 0x0FF00 = .error (.outsideBlock false 0xFF) ∧ decodeWord first 0x05000 = .error (.outsideBlock false 0x50) ∧
    decodeWord first 0x15200 = .error (.outsideBlock true 0x52) ∧ decodeWord first 0x1C0AA = .error (.outsideBlock true 0xC0) ∧
    decodeWord first 0x17FAA = .error (.outsideBlock true 0x7F) := by decide

theorem test_decode_bytes :
    decodeBytes first [0x05, 0xBF, 0x01, 0x77] = .ok (.vdpCtrl1 0xBF 0x05, [0x77]) ∧
    decodeBytes first [0x05, 0xBF, 0x03] = .error .notAPortWord ∧ decodeBytes first [0x05, 0xBF] = .error .truncated := by decide

/-- Rows of the opcode table, read without the latches. -/
theorem test_decode_table_words :
    decodeTableWord 24 0x1A100 = some (.vdpCtrl1 0xA1 0) ∧ decodeTableWord 24 0x1A140 = some (.vdpWriteSetup 0xA1 0) ∧
    decodeTableWord 24 0x1A180 = some (.vdpRegForm 0xA1 0) ∧ decodeTableWord 24 0x1A1C0 = some (.vdpC0 0xA1 0) ∧
    decodeTableWord 24 0x0A100 = some (.vdpStatusRd 0xA1) ∧ decodeTableWord 24 0x1E0E0 = some (.snLatchNoise 0xE0 0) ∧
    decodeTableWord 24 0x15100 = some (.ayWr 0) ∧ decodeTableWord 24 0x05200 = some .ayRd ∧
    decodeTableWord 24 0x00000 = none := by decide

/-- A placed word is what the next step runs, a second byte too. -/
theorem test_withFetchWord_runs :
    after (step (State.reset.withFetchWord 24 0x1A1C5)) (fun s => (s.vdp.vaddr, s.vdp.wlatch, s.env.stream)) =
      some (0x0500, false, []) ∧
    after (step (State.reset.withFetchWord 24 0x1A156)) (fun s => (s.vdp.vaddr, s.vdp.wlatch)) = some (0x1600, false) ∧
    after (step (State.reset.withFetchWord 24 0x1FF9A)) (fun s => (s.sn.att[0], s.sched.stepPenalty)) = some (0xA, 48) := by
  decide +kernel

/-! ## VDP ports -/

/-- V-P1. -/
theorem test_ctrl1 :
    after (exec (.vdpCtrl1 0xBF 0x56) (withVdp fun v => { v with vaddr := 0x1234 })) (fun s => (s.vdp.dlatch, s.vdp.vaddr, s.vdp.wlatch)) =
      some (0x56, 0x1256, true) := by decide +kernel

/-- V-P2. -/
theorem test_write_setup :
    after (exec (.vdpWriteSetup 0xBF 0x3F) (withVdp fun v => { v with wlatch := true })) (fun s => (s.vdp.vaddr, s.vdp.wlatch)) =
      some (0x3F00, false) := by decide +kernel

/-- V-P3's set-up: dlatch holds the byte at the address, vaddr is past it. -/
theorem test_read_setup :
    after (exec (.vdpReadSetup 0xBF 0x10) (withVdp fun v => { v with vram := [(0x1000, 0xAB)], wlatch := true }))
      (fun s => (s.vdp.dlatch, s.vdp.vaddr)) = some (0xAB, 0x1001) := by decide +kernel

/-- At 0x3FFF the read setup's increment wraps (R193). -/
theorem test_read_setup_wraps :
    after (exec (.vdpReadSetup 0xBF 0x3F) (withVdp fun v => { v with dlatch := 0xFF, wlatch := true })) (fun s => s.vdp.vaddr) =
      some 0 := by decide +kernel

/-- V-P14 and, for the mask and the NMI, V-P13. -/
theorem test_reg_form :
    after (exec (.vdpRegForm 0xBF 1) (withVdp fun v => { v with dlatch := 0xE2, wlatch := true }))
      (fun s => (s.vdp.reg[1], s.vdp.vaddr, s.env.events)) = some (0xE2, 0x01E2, []) ∧
    after (exec (.vdpRegForm 0xBF 1) (withVdp fun v => { v with dlatch := 0xE4, status := 0x80, reg := regs 0 0xC0 0 0 0 0 0 0 }))
      (fun s => (s.vdp.reg[1], s.env.events)) = some (0xE0, [.nmi .regWrite]) := by decide +kernel

/-- V-P11: GINT already 1; V-P15: bits 5..3 do not select the register. -/
theorem test_reg_form_no_nmi :
    after (exec (.vdpRegForm 0xBF 1) (withVdp fun v => { v with dlatch := 0xE0, status := 0x80, reg := regs 0 0xE0 0 0 0 0 0 0 }))
      (fun s => s.env.events) = some [] ∧
    after (exec (.vdpRegForm 0xBF 8) (withVdp fun v => { v with dlatch := 0x07 })) (fun s => (s.vdp.reg[0], s.vdp.vaddr)) =
      some (0x03, 0x0807) := by decide +kernel

/-- V-P16 and V-P17. -/
theorem test_c0 :
    after (exec (.vdpC0 0xBF 5) (withVdp fun v => { v with reg := regs 1 1 1 1 1 0x11 1 1 })) (fun s => (s.vdp.vaddr, s.vdp.reg[5])) =
      some (0x0500, 0x11) ∧
    after (exec (.vdpC0 0xBF 5) { (withVdp fun v => { v with reg := regs 1 1 1 1 1 0x11 1 1 }) with
        cfg := { Setup.reference with c0Action := .registerWrite } }) (fun s => (s.vdp.vaddr, s.vdp.reg[5])) =
      some (0x0500, 0) := by decide +kernel

/-- R198's example: the store at 0x3FFF and the wrap. -/
theorem test_data_wr :
    after (exec (.vdpDataWr 0xBE 0x11) (withVdp fun v => { v with vaddr := 0x3FFF })) (fun s => (s.vdp.vram, s.vdp.vaddr, s.vdp.dlatch)) =
      some ([(0x3FFF, 0x11)], 0, 0x11) := by decide +kernel

/-- V-P19: with DATA_WR_LOADS_DLATCH false dlatch is kept. -/
theorem test_data_wr_keeps_latches :
    after (exec (.vdpDataWr 0xBE 0x77) { (withVdp fun v => { v with dlatch := 0x12, wlatch := true }) with
        cfg := { Setup.reference with dataWrLoadsDlatch := false, dataWrClearsWlatch := false } })
      (fun s => (s.vdp.dlatch, s.vdp.wlatch)) = some (0x12, true) := by decide +kernel

/-- R199's example. -/
theorem test_data_rd :
    after (exec (.vdpDataRd 0xBE) (withVdp fun v => { v with dlatch := 0xAB, vaddr := 0x1001, vram := [(0x1001, 0xCD)], wlatch := true }))
      (fun s => (s.env.events, s.vdp.dlatch, s.vdp.vaddr, s.vdp.wlatch)) =
      some ([.readReturned 0xBE 0xAB], 0xCD, 0x1002, false) := by decide +kernel

/-- V-P9. -/
theorem test_status_rd :
    after (exec (.vdpStatusRd 0xBF) (withVdp fun v => { v with status := 0xE5, wlatch := true }))
      (fun s => (s.env.events, s.vdp.status, s.vdp.wlatch)) = some ([.readReturned 0xBF 0xE5], 0x05, false) := by decide +kernel

/-! ## SN76489 -/

/-- V-S1: the low bits and the 48-cycle charge. -/
theorem test_latch_tone0 :
    after (exec (.snLatchTone0 0xFF 0xA) State.reset) (fun s => (s.sn.freq[0], s.sn.lch, s.sn.ltype, s.sched.stepPenalty)) =
      some (0x00A, 0, false, 48) := by decide +kernel

/-- R121's example. -/
theorem test_latch_tone1 :
    after (exec (.snLatchTone1 0xFF 0x5) (withSn fun c => { c with freq := #v[0, 0x120, 0] })) (fun s => (s.sn.freq[1], s.sn.lch)) =
      some (0x125, 1) := by decide +kernel

/-- V-S4a's first write. -/
theorem test_latch_tone2 :
    after (exec (.snLatchTone2 0xFF 0x5) (withSn fun c => { c with ltype := true })) (fun s => (s.sn.freq[2], s.sn.lch, s.sn.ltype)) =
      some (0x005, 2, false) := by decide +kernel

/-- V-S4c: bit 3 is dropped and the LFSR reseeded. -/
theorem test_latch_noise :
    after (exec (.snLatchNoise 0xFF 0xD) (withSn fun c => { c with lfsr := 0x1234 })) (fun s => (s.sn.noise, s.sn.lfsr, s.sn.lch)) =
      some (5, 0x4000, 3) := by decide +kernel

/-- V-S4's first write. -/
theorem test_latch_att :
    after (exec (.snLatchAtt 0xFF 1 7) State.reset) (fun s => (s.sn.att[1], s.sn.lch, s.sn.ltype)) = some (7, 1, true) := by
  decide +kernel

/-- V-S3: bit 6 is ignored and the low four bits are kept. -/
theorem test_data_tone :
    after (exec (.snData 0xFF 0x7F) (withSn fun c => { c with freq := #v[0x00A, 0, 0] })) (fun s => s.sn.freq[0]) = some 0x3FA := by
  decide +kernel

/-- V-S4d, and V-S4's second write. -/
theorem test_data_noise_and_att :
    after (exec (.snData 0xFF 0x06) (withSn fun c => { c with lch := 3, lfsr := 1 })) (fun s => (s.sn.noise, s.sn.lfsr)) =
      some (6, 0x4000) ∧
    after (exec (.snData 0xFF 0x0C) (withSn fun c => { c with lch := 1, ltype := true })) (fun s => s.sn.att[1]) = some 12 := by
  decide +kernel

/-- V-S7. -/
theorem test_lfsr_shift :
    lfsrShift 0x4000 true = 0x2000 ∧ lfsrShift 0x0002 true = 0x4001 ∧ lfsrShift 0x0003 true = 0x0001 ∧
    lfsrShift 0x0001 false = 0x4000 ∧ lfsrShift 0x0001 true = 0x4000 := by decide

/-- V-S5t, tick 1: the output before the shift, then the reload and the shift. -/
theorem test_sn_tick_noise :
    after (exec .snTick (withSn fun c => { c with att := #v[15, 15, 15, 0], noise := 4, lfsr := 0x4001, cnt := #v[0, 0, 0, 1] }))
      (fun s => (s.sn.snbuf, s.sn.cnt[3], s.sn.freqff[3], s.sn.lfsr)) = some ([0x1FFF], 16, true, 0x6000) := by decide +kernel

/-- V-S4t, tick 5: the new attenuator shows at the reload, in the high half. -/
theorem test_sn_tick_tone :
    after (exec .snTick (withSn fun c => { c with att := #v[0, 15, 15, 15], freq := #v[0x3FF, 0, 0], cnt := #v[1, 0, 0, 9], freqff := 1 }))
      (fun s => (s.sn.snbuf, s.sn.cnt[0], s.sn.freqff[0])) = some ([0x1FFF], 0x3FF, false) := by decide +kernel

/-! ## AY-3-8910 -/

/-- V-A11: bits 7..4 are ignored and the envelope is not restarted. -/
theorem test_ay_addr :
    after (exec (.ayAddr 0x1D) (withAy fun a => { a with ecnt := 5 })) (fun s => (s.ay.ayidx, s.ay.ecnt)) = some (13, 5) := by
  decide +kernel

/-- R151's example, and V-A14: the selected register is the shape. -/
theorem test_ay_wr :
    after (exec (.ayWr 0xFF) (withAy fun a => { a with ayidx := 1 })) (fun s => s.ay.reg[1]) = some 0x0F ∧
    after (exec (.ayWr 0x0A) (withAy fun a => { a with ayidx := 13, evol := 9, eseg := true, estep := 7, ecnt := 3 }))
      (fun s => (s.ay.ecnt, s.ay.eseg, s.ay.evol, s.ay.estep)) = some (0, false, 15, 0) := by decide +kernel

/-- V-A10's masks, one register of each row. -/
theorem test_ay_refined_masks :
    after (exec (.ayWrTone 1 0xFF) State.reset) (fun s => s.ay.reg[1]) = some 0x0F ∧
    after (exec (.ayWrNoise 0xFF) State.reset) (fun s => s.ay.reg[6]) = some 0x1F ∧
    after (exec (.ayWrMixer 0xFF) State.reset) (fun s => s.ay.reg[7]) = some 0xFF ∧
    after (exec (.ayWrAmp 2 0xFF) State.reset) (fun s => s.ay.reg[10]) = some 0x1F ∧
    after (exec (.ayWrEper 1 0xFF) State.reset) (fun s => s.ay.reg[12]) = some 0xFF ∧
    after (exec (.ayWrShape 0xFF) State.reset) (fun s => s.ay.reg[13]) = some 0x0F ∧
    after (exec (.ayWrIo 0 0x5A) State.reset) (fun s => s.ay.reg[14]) = some 0x5A := by decide +kernel

/-- R159's example. -/
theorem test_ay_rd :
    after (exec .ayRd (withAy fun a => { a with ayidx := 6, reg := a.reg.set 6 0x1F })) (fun s => s.env.events) =
      some [.readReturned 0x52 0x1F] := by decide +kernel

/-- V-A7, ticks 1 and 2 (a channel-0 noise at nperiod 1). -/
theorem test_ay_tick_noise :
    after (exec .ayTick (withAy fun a => { a with reg := (a.reg.set 7 0x37).set 8 0x0F })) (fun s => (s.ay.aybuf, s.ay.nshift, s.ay.ncnt)) =
      some ([4096], 1, 1) ∧
    after (exec .ayTick (withAy fun a => { a with reg := (a.reg.set 7 0x37).set 8 0x0F, ncnt := 1 })) (fun s => (s.ay.aybuf, s.ay.nshift)) =
      some ([0], 0x10000) := by decide +kernel

/-- V-A6: a counter above a lowered period; and V-A2, tick 4: the second envelope step of shape 10 moves evol to 14. -/
theorem test_ay_tick_tone_and_envelope :
    after (exec .ayTick (withAy fun a => { a with reg := a.reg.set 0 44, tcnt := #v[100, 0, 0] })) (fun s => (s.ay.tcnt[0], s.ay.sign[0])) =
      some (0, true) ∧
    after (exec .ayTick (withAy fun a => { a with
        reg := (((a.reg.set 7 0x3F).set 8 0x10).set 11 1).set 13 10, evol := 15, estep := 1, ecnt := 1 }))
      (fun s => (s.ay.evol, s.ay.estep, s.ay.aybuf)) = some (14, 2, [3300]) := by decide +kernel

/-! ## The line step -/

/-- V-L1: the VBlank NMI, and V-L2: the re-entrancy guard. -/
theorem test_line_vblank :
    after (exec .vdpLine (withVdp fun v => { v with line := 191, reg := regs 0 0x20 0 0 0 0 0 7 }))
      (fun s => (s.vdp.line, s.vdp.status, s.env.events, s.vdp.fb[199][0], s.vdp.fb[199][271])) =
      some (192, 0x80, [.nmi .vblank], 7, 7) ∧
    after (exec .vdpLine (withVdp fun v => { v with line := 191, status := 0x80, reg := regs 0 0x20 0 0 0 0 0 7 }))
      (fun s => (s.vdp.status, s.env.events)) = some (0x80, []) := by decide +kernel

/-- V-L4 and V-L5: the wrap in NTSC, and the same line in PAL. -/
theorem test_line_wrap :
    after (exec .vdpLine (withVdp fun v => { v with line := 261, reg := regs 0 0 0 0 0 0 0 7 }))
      (fun s => (s.vdp.line, s.vdp.fb[7][0], s.vdp.fb[200][271], s.vdp.fb[8][0])) = some (0, 7, 7, 0) ∧
    after (exec .vdpLine { (withVdp fun v => { v with line := 261, reg := regs 0 0 0 0 0 0 0 7 }) with
        cfg := { Setup.reference with region := .pal } }) (fun s => (s.vdp.line, s.vdp.fb[7][0])) = some (262, 0) := by
  decide +kernel

/-- V-L9: Graphics 1. -/
theorem test_line_graphics1 :
    after (exec .vdpLine (withVdp fun v => { v with
        reg := regs 0 0xC0 0x06 0x80 0 0x36 0x07 0x04
        vram := [(0x0208, 0xF0), (0x1800, 0x41), (0x1B00, 0xD0), (0x2008, 0x1F)] }))
      (fun s => (s.vdp.fb[8][7], s.vdp.fb[8][8], s.vdp.fb[8][11], s.vdp.fb[8][12], s.vdp.fb[8][15], s.vdp.fb[8][264])) =
      some (4, 1, 1, 15, 15, 4) := by decide +kernel

/-- V-L11: Graphics 2. -/
theorem test_line_graphics2 :
    after (exec .vdpLine (withVdp fun v => { v with
        line := 65
        reg := regs 0x02 0xC0 0x06 0xFF 0x03 0x36 0x07 0x04
        vram := [(0x0829, 0x81), (0x1900, 0x05), (0x1B00, 0xD0), (0x2829, 0x6E)] }))
      (fun s => (s.vdp.fb[73][8], s.vdp.fb[73][9], s.vdp.fb[73][14], s.vdp.fb[73][15])) = some (6, 14, 14, 6) := by
  decide +kernel

/-- V-L13: Multicolor, line 44. -/
theorem test_line_multicolor :
    after (exec .vdpLine (withVdp fun v => { v with
        line := 44
        reg := regs 0 0xC8 0x06 0 0 0x36 0x07 0x04
        vram := [(18, 0x50), (19, 0x3A), (0x18A0, 2), (0x1B00, 0xD0)] }))
      (fun s => (s.vdp.fb[52][8], s.vdp.fb[52][11], s.vdp.fb[52][12], s.vdp.fb[52][15])) = some (3, 3, 10, 10) := by
  decide +kernel

/-- V-L14: Text; the status is kept. -/
theorem test_line_text :
    after (exec .vdpLine (withVdp fun v => { v with
        reg := regs 0 0xD0 0x02 0 0 0 0 0xF4
        vram := [(0x08, 0xFC), (0x10, 0xA8), (0x0800, 1), (0x0801, 2)] }))
      (fun s => (s.vdp.fb[8][15], s.vdp.fb[8][16], s.vdp.fb[8][21], s.vdp.fb[8][22], s.vdp.fb[8][23], s.vdp.fb[8][24], s.vdp.fb[8][28],
        s.vdp.status)) = some (4, 15, 15, 15, 4, 15, 4, 0) := by decide +kernel

/-- V-Q1: five sprites on a line; four are drawn, 5S is set and FS names the fifth. -/
theorem test_line_fifth_sprite :
    after (exec .vdpLine (withVdp fun v => { v with
        line := 10
        reg := regs 0 0xC0 0x06 0x80 0 0x36 0x07 0x04
        vram := Memory.ofBytesFrom 0x1B00 [9, 0, 0, 2, 9, 20, 0, 3, 9, 40, 0, 5, 9, 60, 0, 6, 9, 80, 0, 7, 0xD0] ++
          Memory.ofBytesFrom 0x3800 (List.replicate 8 0xFF) }))
      (fun s => (s.vdp.status, s.vdp.fb[18][8], s.vdp.fb[18][35], s.vdp.fb[18][36], s.vdp.fb[18][75], s.vdp.fb[18][88])) =
      some (0x44, 2, 3, 4, 6, 4) := by decide +kernel

/-- V-Q4: a transparent sprite owns its columns and collides. -/
theorem test_line_collision :
    after (exec .vdpLine (withVdp fun v => { v with
        line := 10
        reg := regs 0 0xC0 0x06 0x80 0 0x36 0x07 0x04
        vram := Memory.ofBytesFrom 0x1B00 [9, 50, 0, 0, 9, 54, 0, 9, 0xD0] ++ Memory.ofBytesFrom 0x3800 (List.replicate 8 0xFF) }))
      (fun s => (s.vdp.status, s.vdp.fb[18][58], s.vdp.fb[18][65], s.vdp.fb[18][66], s.vdp.fb[18][69], s.vdp.fb[18][70])) =
      some (0x21, 4, 4, 9, 9, 4) := by decide +kernel

/-- V-Q9, line 1: 16×16 magnified, Y = 225. -/
theorem test_line_large_sprite :
    after (exec .vdpLine (withVdp fun v => { v with
        line := 1
        reg := regs 0 0xC3 0x06 0x80 0 0x36 0x07 0x04
        vram := Memory.ofBytesFrom 0x1B00 [225, 0, 0, 0x0F, 0xD0] ++
          Memory.ofBytesFrom 0x3800 ((List.range 32).map fun k => BitVec.ofNat 8 (k + 1)) }))
      (fun s => (s.vdp.fb[9][13], s.vdp.fb[9][14], s.vdp.fb[9][15], s.vdp.fb[9][16], s.vdp.fb[9][28], s.vdp.fb[9][29], s.vdp.fb[9][30])) =
      some (4, 15, 15, 4, 15, 15, 4) := by decide +kernel

/-- V-Q6 and V-Q7: the EC shift, and both edges. -/
theorem test_line_sprite_edges :
    after (exec .vdpLine (withVdp fun v => { v with
        line := 10
        reg := regs 0 0xC0 0x06 0x80 0 0x36 0x07 0x04
        vram := Memory.ofBytesFrom 0x1B00 [9, 28, 0, 0x8F, 9, 250, 0, 7, 0xD0] ++ Memory.ofBytesFrom 0x3800 (List.replicate 8 0xFF) }))
      (fun s => (s.vdp.fb[18][8], s.vdp.fb[18][11], s.vdp.fb[18][12], s.vdp.fb[18][258], s.vdp.fb[18][263], s.vdp.fb[18][264])) =
      some (15, 15, 4, 7, 7, 4) := by decide +kernel

/-- V-L16: an undocumented mode; the overscan is the backdrop and one free row is drawn. -/
theorem test_line_undocumented :
    after (exec .vdpLine (withVdp fun v => { v with reg := regs 0x02 0xD0 0 0 0 0 0 0x04, vram := [(0, 0xD0)] }))
      (fun s => (s.vdp.fb[8][0], s.vdp.fb[8][271], s.env.undocDraws)) = some (4, 4, 1) := by decide +kernel

/-! ## The scheduler -/

/-- V-F5: 76 cycles are four tick pairs and 12 left over. -/
theorem test_psg_clock :
    after (exec (.psgClock 66) (State.reset.setSched { State.reset.sched with psgcycs := 10 }))
      (fun s => (s.sched.psgcycs, s.sn.psgsamps, s.ay.sgmpsgsamps)) = some (12, 4, 4) := by decide +kernel

/-- V-F6, V-F7 and V-F8. -/
theorem test_mix_sample :
    (mixSample .wrap 0x7FFC 12288).toInt = -20484 ∧ (mixSample .saturate 0x7FFC 12288).toInt = 32767 ∧
    (mixSample .wrap 0x1FFF 4096).toInt = 12287 ∧ (mixSample .wrap 20479 12288).toInt = 32767 := by decide

theorem test_mix :
    after (exec .mix ((withSn fun c => { c with snbuf := [0x1FFF, 1], psgsamps := 2 }).setAy
        { State.reset.ay with aybuf := [4096, 2], sgmpsgsamps := 2 })) (fun s => (s.sn.snbuf, s.ay.aybuf)) =
      some ([12287, 3], [4096, 2]) := by decide +kernel

theorem test_resample_and_deliver :
    after (exec .resampleAndDeliver (withSn fun c => { c with snbuf := [1, 2], psgsamps := 2 }))
      (fun s => (s.sched.rs, s.env.events.length)) = some ([[1, 2]], 1) := by decide +kernel

/-- V-S4e: three SN writes in one CPU step of base 4. -/
theorem test_cpu_step_penalty :
    (cpuStep (State.reset.setEnv { State.reset.env with cpuSteps := [⟨[0x1FF90, 0x1FF9F, 0x1FF90], 4⟩] })).2 = 148 := by
  decide +kernel

/-- V-F3, line 1: with 272 cycles of credit no CPU step runs and 44 are left. -/
theorem test_scanline_without_step :
    after (scanline (State.reset.setSched { State.reset.sched with extcycs := 272 }))
      (fun s => (s.sched.extcycs, s.vdp.line, s.env.events)) = some (44, 1, []) := by decide +kernel

/-- A frame whose credit pays for every line: 262 line steps, the VBlank among them, and one delivery; it ends on the line it began
on. The witness of FrameReturnsToItsLine. -/
theorem test_frame :
    let s := (withVdp fun v => { v with line := 261 }).setSched { State.reset.sched with extcycs := 228 * 262 }
    s.vdp.line < s.numScanlines ∧ after (exec .frameExec s) (fun s => (s.sched.extcycs, s.vdp.line, s.vdp.status, s.env.events.length)) =
      some (0, 261, 0x80, 1) := by decide +kernel

/-- R299: the oracle is told the values, the pulses and the penalties, not which place raised an NMI, the base cycles or the audio. -/
theorem test_cpu_inputs :
    cpuInputs [.audioReady 3, .cpuStepDone 4 48, .nmi .vblank, .nmi .regWrite, .readReturned 0xBE 7] =
      [.penalty 48, .nmi, .nmi, .read 7] := by decide

/-- The output pixel's bytes: B, G, R, 0xFF. -/
theorem test_pixel_bytes : pixelBytes 0xFF123456 = [0x56, 0x34, 0x12, 0xFF] := by decide

/-! ## Witnesses: for each statement with hypotheses, a state and operands that meet them, clause by clause -/

/-- A state whose stream holds these. -/
def withStream (l : List Issue) : State := State.reset.setEnv { State.reset.env with stream := l }

/-- A state with another parameter set. -/
def withSetup (f : Setup → Setup) : State := { State.reset with cfg := f Setup.reference }

theorem test_witness_DecodeOfEncodeIsIdentity :
    (Instr.vdpRegForm 0xBF 0x3F).wellFormed = true ∧ encode (.vdpRegForm 0xBF 0x3F) = some 0x1BFBF ∧
    (Instr.snLatchAtt 0xE0 3 15).wellFormed = true ∧ encode (.snLatchAtt 0xE0 3 15) = some 0x1E0FF ∧
    (Instr.ayWrIo 1 0xFF).wellFormed = true ∧ encode (.ayWrIo 1 0xFF) = some 0x151FF := by decide

theorem test_witness_DecodedWordIsTheEncoding :
    decodeWord ⟨true, some 13⟩ 0x1BFC5 = .ok (.vdpC0 0xBF 5) ∧ decodeWord ⟨true, some 13⟩ 0x15108 = .ok (.ayWrShape 8) ∧
    decodeWord ⟨true, some 13⟩ 0x0BE77 = .ok (.vdpDataRd 0xBE) := by decide

theorem test_witness_StepRunsTheNextOperation :
    (withStream [.word 0x1BF05]).env.stream = .word 0x1BF05 :: [] ∧
    decodeWord ⟨(withStream [.word 0x1BF05]).vdp.wlatch, none⟩ 0x1BF05 = .ok (.vdpCtrl1 0xBF 5) ∧
    (withStream [.word 0x17FAA]).env.stream = .word 0x17FAA :: [] ∧
    decodeWord ⟨(withStream [.word 0x17FAA]).vdp.wlatch, none⟩ 0x17FAA = .error (.outsideBlock true 0x7F) ∧
    (withStream [.op .snTick]).env.stream = .op .snTick :: [] ∧ (withStream [.systemReset]).env.stream = .systemReset :: [] ∧
    (withStream []).env.stream = [] := by decide +kernel

theorem test_witness_PlacedWordRunsNext :
    decodeTableWord 24 0x1BFBF = some (.vdpRegForm 0xBF 0x3F) ∧ decodeTableWord 24 0x0BE00 = some (.vdpDataRd 0xBE) := by decide

theorem test_witness_RegisterFormWritesAndRaises :
    (7 : Fin 8).val = (0x3F : BitVec 6).toNat % 8 ∧ (0 : Fin 8).val = (0x38 : BitVec 6).toNat % 8 := by decide

theorem test_witness_FormC0FollowsItsParameter :
    (withSetup fun c => { c with c0Action := .addressOnly }).cfg.c0Action = .addressOnly ∧
    (withSetup fun c => { c with c0Action := .registerWrite }).cfg.c0Action = .registerWrite := by decide +kernel

theorem test_witness_DataWriteStoresAndAdvances :
    (withVdp fun v => { v with vaddr := 0x3FFF, vram := [(0x3FFF, 1)] }).vdp.vram.wf = true := by decide +kernel

theorem test_witness_VramWriteReadsBack : (withVdp fun v => { v with vram := [(0, 1), (0x3FFF, 0xFF)] }).vdp.vram.wf = true := by
  decide +kernel

theorem test_witness_ToneLatchWritesLowBits :
    (Instr.snLatchTone2 0xFF 0, (2 : Fin 3)) ∈
      [(Instr.snLatchTone0 0xFF 0, (0 : Fin 3)), (.snLatchTone1 0xFF 0, 1), (.snLatchTone2 0xFF 0, 2)] := by decide

/-- A full buffer; one with room, counters at 1 and 2 and at 0 and 0x3FF. -/
theorem test_witness_SnTickRunsTheChannels :
    (withSetup fun c => { c with psgBufCap := 0 }).cfg.psgBufCap ≤ (withSetup fun c => { c with psgBufCap := 0 }).sn.snbuf.length ∧
    (withSn fun c => { c with cnt := #v[1, 2, 0, 0x3FF] }).sn.snbuf.length < (withSn fun c => { c with cnt := #v[1, 2, 0, 0x3FF] }).cfg.psgBufCap ∧
    (#v[1, 2, 0, 0x3FF] : Vector (BitVec 10) 4)[(0 : Fin 4)].toNat ≤ 1 ∧ 1 < (#v[1, 2, 0, 0x3FF] : Vector (BitVec 10) 4)[(1 : Fin 4)].toNat ∧
    1 < (#v[1, 2, 0, 0x3FF] : Vector (BitVec 10) 4)[3].toNat := by decide +kernel

theorem test_witness_ToneTogglesEveryPeriod :
    (withSn fun c => { c with cnt := #v[0, 0x3FF, 0, 0], freq := #v[0, 0x3FF, 1] }).sn.cnt[(1 : Fin 4)] =
      (withSn fun c => { c with cnt := #v[0, 0x3FF, 0, 0], freq := #v[0, 0x3FF, 1] }).sn.freq[(1 : Fin 3)] ∧
    (1 : Fin 4).val = (1 : Fin 3).val := by decide +kernel

theorem test_witness_SnSampleNeverSaturates : (withSn fun c => { c with out := #v[0, 0x1FFF, 0x0146, 0] }).sn.OutLegal := by
  unfold Sn.OutLegal; decide +kernel

theorem test_witness_AyWriteStoresMasked :
    (15 : Fin 16).val = (withAy fun a => { a with ayidx := 15 }).ay.ayidx.toNat ∧ (15 : Fin 16) ≠ 13 ∧
    (13 : Fin 16).val = (withAy fun a => { a with ayidx := 13 }).ay.ayidx.toNat := by decide +kernel

theorem test_witness_AyPlainRowsOnlyStore (v : Byte) :
    (∃ k : Fin 6, Instr.ayWrTone 5 v = .ayWrTone k v ∧ (5 : Fin 16).val = k.val) ∧
    (∃ k : Fin 3, Instr.ayWrAmp 2 v = .ayWrAmp k v ∧ (10 : Fin 16).val = 8 + k.val) ∧
    (∃ k : Fin 2, Instr.ayWrEper 1 v = .ayWrEper k v ∧ (12 : Fin 16).val = 11 + k.val) ∧
    (∃ k : Fin 2, Instr.ayWrIo 1 v = .ayWrIo k v ∧ (15 : Fin 16).val = 14 + k.val) ∧
    (Instr.ayWrNoise v = .ayWrNoise v ∧ (6 : Fin 16) = 6) ∧ (Instr.ayWrMixer v = .ayWrMixer v ∧ (7 : Fin 16) = 7) :=
  ⟨⟨5, rfl, rfl⟩, ⟨2, rfl, rfl⟩, ⟨1, rfl, rfl⟩, ⟨1, rfl, rfl⟩, ⟨rfl, rfl⟩, rfl, rfl⟩

theorem test_witness_AyReadHasNoSideEffect : (15 : Fin 16).val = (withAy fun a => { a with ayidx := 15 }).ay.ayidx.toNat := by
  decide +kernel

/-- The periods of registers 0x0FFF, 0 and 0, of 0x1F, and of 0xFF11 and 0: a full buffer; each counter one below its period; each
two below. -/
theorem test_witness_AyTickRunsTheGenerators :
    let tperiod : Fin 3 → Nat := fun i => if i = 0 then 4095 else 1
    let s := fun k e => withAy fun a => { a with
      reg := ((((a.reg.set 0 0xFF).set 1 0x0F).set 6 0x1F).set 11 0x11).set 12 0xFF, tcnt := #v[4096 - k, 0, 0], ncnt := 63 - k, ecnt := e }
    let full := { s 2 130593 with cfg := { Setup.reference with psgBufCap := 0 } }
    (∀ i : Fin 3, tperiod i = max 1 ((s 2 130593).ay.reg[2 * i.val].toNat + 256 * (s 2 130593).ay.reg[2 * i.val + 1].toNat)) ∧
    31 = max 1 (s 2 130593).ay.reg[6].toNat ∧ 65297 = (s 2 130593).ay.reg[11].toNat + 256 * (s 2 130593).ay.reg[12].toNat ∧
    full.cfg.psgBufCap ≤ full.ay.aybuf.length ∧ (s 2 130593).ay.aybuf.length < (s 2 130593).cfg.psgBufCap ∧
    tperiod 0 ≤ (s 2 130593).ay.tcnt[(0 : Fin 3)] + 1 ∧ 2 * 31 ≤ (s 2 130593).ay.ncnt + 1 ∧ 2 * 65297 ≤ (s 2 130593).ay.ecnt + 1 ∧
    (s 3 130592).ay.tcnt[(0 : Fin 3)] + 1 < tperiod 0 ∧ (s 3 130592).ay.ncnt + 1 < 2 * 31 ∧ (s 3 130592).ay.ecnt + 1 < 2 * 65297 := by
  decide +kernel

theorem test_witness_EnvelopeFollowsItsTable :
    after (exec (.ayWrShape 0x0F) State.reset) (fun s => (s.ay.evol, s.ay.shape)) = some (0, 15) := by decide +kernel

/-- Room for exactly the one sample that 16 cycles fill. -/
theorem test_witness_PsgClockTicksEverySixteen :
    let s := withSetup fun c => { c with psgBufCap := 1 }
    s.sn.snbuf.length + (s.sched.psgcycs + 31) / 16 ≤ s.cfg.psgBufCap ∧
    s.ay.aybuf.length + (s.sched.psgcycs + 31) / 16 ≤ s.cfg.psgBufCap := by decide +kernel

/-- Two samples on each stream, one sum at the top of its range. -/
def mixable : State := (withSn fun c => { c with snbuf := [0x7FFC, 0], psgsamps := 2 }).setAy { State.reset.ay with aybuf := [12288, 0] }

theorem mixable_sn : mixable.sn = { State.reset.sn with snbuf := [0x7FFC, 0], psgsamps := 2 } := by
  unfold mixable withSn; rw [State.setAy_sn, State.setSn_sn]

theorem mixable_ay : mixable.ay = { State.reset.ay with aybuf := [12288, 0] } := by unfold mixable; rw [State.setAy_ay]

theorem test_witness_MixSumsTheStreams :
    mixable.sn.snbuf.length = mixable.sn.psgsamps ∧ mixable.ay.aybuf.length = mixable.sn.psgsamps ∧
    (∀ x ∈ mixable.sn.snbuf, 0 ≤ x.toInt) ∧ (∀ x ∈ mixable.ay.aybuf, 0 ≤ x.toInt) ∧
    mixable.sn.snbuf[0]? = some 0x7FFC ∧ mixable.ay.aybuf[0]? = some 12288 := by
  rw [mixable_sn, mixable_ay]; dsimp only
  refine ⟨rfl, rfl, ?_, ?_, rfl, rfl⟩ <;> simp

/-- The pixel clause of LineStepAdvances, below, on and past the line; the last line of a frame for WrapPaintsTheBands. -/
theorem test_witness_LineStepAdvances :
    let s := withVdp fun v => { v with line := 191 }
    s.vdp.line + 1 ≠ s.numScanlines ∧ s.vdp.line < 192 ∧ 198 ≠ s.vdp.line + 8 := by decide +kernel

theorem test_witness_WrapPaintsTheBands :
    (withVdp fun v => { v with line := 261 }).vdp.line + 1 = (withVdp fun v => { v with line := 261 }).numScanlines := by
  decide +kernel

theorem test_witness_BlankLineIsBackdrop :
    (withVdp fun v => { v with line := 191, reg := regs 0 0xBB 0 0 0 0 0 7 }).vdp.line < 192 ∧
    (withVdp fun v => { v with line := 191, reg := regs 0 0xBB 0 0 0 0 0 7 }).vdp.reg[1].getLsbD 6 = false := by decide +kernel

/-- For each screen mode, an enabled last visible line. -/
def lineIn (r0 r1 : Byte) : State := withVdp fun v => { v with line := 191, reg := regs r0 r1 0x0F 0xFF 0x07 0x7F 0x07 0xFF }

theorem test_witness_mode_lines :
    (lineIn 0 0x40).vdp.line < 192 ∧ (lineIn 0 0x40).vdp.reg[1].getLsbD 6 = true ∧ (lineIn 0 0x40).vdp.modeNumber = 0 ∧
    (lineIn 2 0x40).vdp.reg[1].getLsbD 6 = true ∧ (lineIn 2 0x40).vdp.modeNumber = 2 ∧ (lineIn 0 0x48).vdp.modeNumber = 4 ∧
    (lineIn 0 0x50).vdp.modeNumber = 1 ∧ (lineIn 2 0x50).vdp.modeNumber = 3 ∧ (lineIn 0 0x58).vdp.modeNumber = 5 ∧
    (lineIn 2 0x48).vdp.modeNumber = 6 ∧ (lineIn 2 0x58).vdp.modeNumber = 7 := by decide +kernel

theorem test_witness_RendererStaysInVram : (lineIn 2 0x40).vdp.RegsMasked ∧ (lineIn 2 0x40).vdp.line < 192 := by
  unfold Vdp.RegsMasked; decide +kernel

theorem test_witness_SpritePassSetsFifthAndIndex :
    runsSpritePass (lineIn 0 0x40).vdp = true ∧ runsSpritePass (lineIn 0 0x50).vdp = false ∧ runsSpritePass (lineIn 0 0).vdp = false ∧
    coveringSprites (withVdp fun v => { v with
      line := 10, reg := regs 0 0xC0 0 0 0 0x36 0 0
      vram := Memory.ofBytesFrom 0x1B00 [9, 0, 0, 2, 9, 20, 0, 3, 9, 40, 0, 5, 9, 60, 0, 6, 9, 80, 0, 7, 0xD0] }).vdp = [0, 1, 2, 3, 4] := by
  decide +kernel

/-- A port of the block, a port outside it, a given step, and none. -/
theorem test_witness_CpuStepChargesEachSnWrite :
    decodeWord State.reset.latches 0x1FF90 = .ok (.snLatchAtt 0xFF 0 0) ∧
    decodeWord State.reset.latches 0x0FF00 = .error (.outsideBlock false 0xFF) ∧
    (State.reset.setEnv { State.reset.env with cpuSteps := [⟨[0x1FF90, 0x1BE00], 4⟩] }).env.cpuSteps = ⟨[0x1FF90, 0x1BE00], 4⟩ :: [] ∧
    State.reset.env.cpuSteps = [] := by
  decide +kernel

/-- A line whose credit just pays for it, and one of a single CPU step: 228 = 14 · 16 + 4 cycles on top of 15, so 15 samples and 3
cycles over. -/
theorem test_witness_ScanlineMeetsItsBudget :
    let s := fun c steps => (State.reset.setSched { State.reset.sched with extcycs := c, psgcycs := 15 }).setEnv
      { State.reset.env with cpuSteps := steps }
    (s 0 []).sched.psgcycs < 16 ∧ 228 ≤ (s 228 []).sched.extcycs ∧ after (scanline (s 228 [])) (fun s => s.vdp.line) = some 1 ∧
    after (scanline (s 0 [⟨[], 228⟩])) (fun s => (s.vdp.line, s.sched.extcycs, s.sched.psgcycs, s.sn.psgsamps, s.ay.sgmpsgsamps)) =
      some (1, 0, 3, 15, 15) := by decide +kernel

/-- Steps of 4 cycles, as many as a frame can take, and buffers of exactly the bound. -/
theorem test_witness_FrameCompletesWithinCapacity :
    let s := (withSetup fun c => { c with psgBufCap := 3734 }).setEnv
      { State.reset.env with cpuSteps := List.replicate (228 * 262) ⟨[], 4⟩ }
    228 * s.numScanlines ≤ s.env.cpuSteps.length ∧ (∀ st ∈ s.env.cpuSteps, st.base + 48 * st.ops.length ≤ 4) ∧
    s.sched.extcycs ≤ 4 ∧ s.sched.psgcycs ≤ 15 ∧ (s.numScanlines * 228 + 4 + 15) / 16 ≤ s.cfg.psgBufCap := by
  refine ⟨?_, ?_, by decide, by decide, by decide⟩
  · rw [State.setEnv_env, List.length_replicate]; exact Nat.le_refl _
  · intro st h
    rw [List.eq_of_mem_replicate h]; decide

/-- The two sources of NMI: V-L1's line step and V-P13's register write. -/
theorem test_witness_NmiHasTwoSources :
    after (exec .vdpLine (withVdp fun v => { v with line := 191, reg := regs 0 0x20 0 0 0 0 0 0 })) (fun s => s.env.events) =
      some [.nmi .vblank] ∧
    after (exec (.vdpC0 0xBF 0x39) { (withVdp fun v => { v with dlatch := 0x20, status := 0x80 }) with
        cfg := { Setup.reference with c0Action := .registerWrite } }) (fun s => s.env.events) = some [.nmi .regWrite] := by decide +kernel

theorem test_witness_IntChangesOnlyAtVblankAndRead :
    after (exec .vdpLine (withVdp fun v => { v with line := 191 })) (fun s => s.vdp.status.getLsbD 7) = some true ∧
    after (exec (.vdpStatusRd 0xA1) (withVdp fun v => { v with status := 0x80 })) (fun s => s.vdp.status.getLsbD 7) = some false := by
  decide +kernel

theorem test_witness_VramChangesOnlyByDataWrite :
    after (exec (.vdpReadSetup 0xBF 0) (withVdp fun v => { v with vram := [(0, 1)] })) (fun s => s.vdp.vram) = some [(0, 1)] := by
  decide +kernel

theorem test_witness_SystemResetFollowsItsParameter :
    (withStream [.systemReset]).env.stream = .systemReset :: [] ∧ (withStream [.systemReset]).cfg.resetEffect = .reinit ∧
    ({ withStream [.systemReset] with cfg := { Setup.reference with resetEffect := .unchanged } }).cfg.resetEffect = .unchanged := by
  decide +kernel

/-- R341: the CPU resets under both values of RESET_EFFECT. -/
theorem test_system_reset_resets_the_cpu :
    after (step (withStream [.systemReset])) (fun s => s.env.events) = some [.cpuReset] ∧
    after (step { withStream [.systemReset] with cfg := { Setup.reference with resetEffect := .unchanged } })
      (fun s => s.env.events) = some [.cpuReset] := by decide +kernel

/-- A state of the invariant with a full set of masked registers, before a step that answers next. -/
theorem test_witness_StepKeepsInvariant :
    ((lineIn 2 0x40).withFetchWord 24 0x1BE05).Inv ∧
    after (step ((lineIn 2 0x40).withFetchWord 24 0x1BE05)) (fun s => s.vdp.vram) = some [(0, 5)] := by
  refine ⟨⟨by decide +kernel, by unfold Vdp.RegsMasked; decide +kernel, by decide +kernel, by unfold Sn.OutLegal; decide +kernel,
    by decide +kernel, by unfold Ay.RegsMasked; decide +kernel, by unfold Ay.CountersInRange; decide +kernel, by decide +kernel,
    by decide +kernel⟩, by decide +kernel⟩

end Sys2Proof.Tests
end

section
/-! The AY-3-8910: what a store, the register select, the shape's write and the mix do (spec/41_ay8910.md). -/

namespace Sys2Proof.Machine

theorem loNibble_toNat (b : Byte) : (loNibble b).toNat = b.toNat % 16 := by
  simp [loNibble]

namespace Ay

theorem storeReg_same (a : Ay) (r : Fin 16) (x : Byte) : (a.storeReg r x).reg[r] = x &&& ayMask[r] := by simp [storeReg]

theorem storeReg_other (a : Ay) {r q : Fin 16} (x : Byte) (h : q ≠ r) : (a.storeReg r x).reg[q] = a.reg[q] := by
  have hv : r.val ≠ q.val := fun h' => h (Fin.ext h'.symm)
  simp [storeReg, hv]

/-- The stored shape is the byte's low nibble (R157). -/
theorem storeReg_shape_toNat (a : Ay) (x : Byte) : (a.storeReg 13 x).reg[13].toNat = x.toNat % 16 := by
  have hs : (a.storeReg 13 x).reg[13] = x &&& 0x0F := a.storeReg_same 13 x
  rw [hs, BitVec.toNat_and]
  exact Nat.and_two_pow_sub_one_eq_mod x.toNat 4

/-- The mask of the shape register keeps the Attack bit (R160). -/
theorem storeReg_shape_attack (a : Ay) (x : Byte) : (a.storeReg 13 x).attack = x.getLsbD 2 := by
  have hs : (a.storeReg 13 x).reg[13] = x &&& 0x0F := a.storeReg_same 13 x
  simp [attack, shape, loNibble, hs]

/-- The restart with the start value of segment 0 written out (R157, R160). -/
theorem restartEnvelope_eq (a : Ay) :
    a.restartEnvelope = { a with ecnt := 0, eseg := false, estep := 0, evol := if a.attack then 0 else 15 } := rfl

theorem vtAy_le (k : BitVec 4) : vtAy[k.toNat] ≤ 4096 := by
  revert k; decide

/-- A channel adds nothing behind a closed gate and one entry of the volume table behind an open one (R164). -/
theorem contribution_le (a : Ay) (i : Fin 3) : a.contribution i ≤ 4096 := by
  unfold contribution
  split
  · split
    · exact vtAy_le a.evol
    · exact vtAy_le (a.amplitude i)
  · exact Nat.zero_le _

/-- The contribution in terms of the registers (R46, R164). -/
theorem contribution_eq_registers (a : Ay) (i : Fin 3) : a.contribution i =
    if ((a.reg[7].getLsbD i || a.sign[i]) && (a.reg[7].getLsbD (3 + i.val) || a.nshift.getLsbD 0)) = true then
      if a.reg[8 + i.val].getLsbD 4 then vtAy[a.evol.toNat] else vtAy[a.reg[8 + i.val].toNat % 16] else 0 := by
  simp only [contribution, audible, tdisable, ndisable, emode, amplitude, loNibble_toNat]

/-- Three volumes fit in a sample: the mix is their exact sum, at most 3 · 4096 (R164). -/
theorem mixed_toNat (a : Ay) :
    a.mixed.toNat = a.contribution 0 + a.contribution 1 + a.contribution 2 ∧ a.mixed.toNat ≤ 12288 := by
  have h0 := a.contribution_le 0
  have h1 := a.contribution_le 1
  have h2 := a.contribution_le 2
  have hm : a.mixed.toNat = a.contribution 0 + a.contribution 1 + a.contribution 2 := by
    rw [mixed, BitVec.toNat_ofNat, Nat.mod_eq_of_lt (by omega)]
  omega

end Ay

/-- Settles O24: the select replaces the latched index by the byte's low nibble, in the AY alone. -/
theorem aySelectLatchesIndex : Obligations.AySelectLatchesIndex := by
  unfold Obligations.AySelectLatchesIndex
  intro v s
  exact ⟨ayAddr v s, rfl, loNibble_toNat v, rfl, State.onlyAy_setAy s _⟩

/-- Settles O28: the masked store, then the restart, whose start value reads the Attack bit just stored. -/
theorem ayShapeRestartsEnvelope : Obligations.AyShapeRestartsEnvelope := by
  unfold Obligations.AyShapeRestartsEnvelope
  intro v s
  have hevol : (ayWrShape v s).ay.evol = if v.getLsbD 2 then 0 else 15 := by
    rw [ayWrShape, State.setAy_ay, Ay.restartEnvelope_eq, Ay.storeReg_shape_attack]
  exact ⟨ayWrShape v s, rfl, s.ay.storeReg_shape_toNat v, fun q hq => s.ay.storeReg_other v hq, rfl, rfl, rfl, hevol,
    rfl, rfl, rfl, rfl, rfl, rfl, rfl, State.onlyAy_setAy s _⟩

/-- Settles O31: no sum of three volumes overflows the sample, so it is the exact sum and its sign bit is 0. -/
theorem ayMixIsGatedSum : Obligations.AyMixIsGatedSum := by
  unfold Obligations.AyMixIsGatedSum
  refine ⟨rfl, fun a => ?_⟩
  obtain ⟨hsum, hle⟩ := a.mixed_toNat
  have hpos : 0 ≤ a.mixed.toInt := by
    rw [BitVec.toInt_eq_toNat_of_lt (by omega)]; exact Int.natCast_nonneg _
  refine ⟨?_, hle, hpos⟩
  simp only [← Ay.contribution_eq_registers]
  rw [hsum]
  simp [List.finRange_succ, Nat.add_assoc]

end Sys2Proof.Machine
end

section
/-! The two VDP reads: what the refill and the acknowledge do (spec/42_vdp_ports.md). -/

namespace Sys2Proof.Machine

/-- The 14-bit address register wraps by its width (R22, R199). -/
theorem vaddr_succ_toNat (a : VAddr) : (a + 1).toNat = (a.toNat + 1) % 0x4000 := BitVec.toNat_add a 1

@[simp] theorem Vdp.refill_dlatch (v : Vdp) : v.refill.dlatch = v.vram.read v.vaddr.toNat := rfl

theorem Vdp.refill_vaddr_toNat (v : Vdp) : v.refill.vaddr.toNat = (v.vaddr.toNat + 1) % 0x4000 := vaddr_succ_toNat v.vaddr

/-- Everything of the VDP but the address register and the two latches is untouched by setting those three. -/
theorem onlyAddressing_update (v : Vdp) (d : Byte) (a : VAddr) (w : Bool) :
    OnlyAddressing v { v with dlatch := d, vaddr := a, wlatch := w } := ⟨fun _ => rfl, rfl, rfl, rfl, rfl⟩

/-- The mask 0x1F keeps the five bits of FS and clears INT, 5S and C (R200). -/
theorem Status.afterRead_getLsbD (status : Byte) (b : Nat) :
    (Status.afterRead status).getLsbD b = (decide (b < 5) && status.getLsbD b) := by
  have hmask : (0x1F : Byte).getLsbD b = decide (b < 5) := Nat.testBit_two_pow_sub_one 5 b
  rw [Status.afterRead, BitVec.getLsbD_and, hmask, Bool.and_comm]

/-- Settles O12: the byte given back is the latch before the refill. -/
theorem dataReadIsOneBehind : Obligations.DataReadIsOneBehind := by
  unfold Obligations.DataReadIsOneBehind
  intro port s
  exact ⟨vdpDataRd port s, rfl, State.giveRead_env _ _ _, s.vdp.refill_dlatch, s.vdp.refill_vaddr_toNat, rfl,
    onlyAddressing_update s.vdp _ _ _, rfl, rfl, rfl, rfl⟩

/-- Settles O13: the byte given back is the status before the mask, and the mask decides every bit after it. -/
theorem statusReadAcknowledges : Obligations.StatusReadAcknowledges := by
  unfold Obligations.StatusReadAcknowledges
  intro port s
  exact ⟨vdpStatusRd port s, rfl, State.giveRead_env _ _ _, rfl, Status.afterRead_getLsbD s.vdp.status, rfl, rfl, rfl, rfl⟩

end Sys2Proof.Machine
end

section
/-! The VBlank: the sprite pass keeps INT, so VBLANK sees the INT of the line step's start (spec/43_vdp_render.md). -/

namespace Sys2Proof.Machine

namespace SpriteBuf

/-- A set pattern bit writes C only (44_vdp_sprites.md R267). -/
theorem mark_int (b : SpriteBuf) (c : Colour) (xp : Int) : (b.mark c xp).status.getLsbD 7 = b.status.getLsbD 7 := by
  unfold mark
  split
  · split
    · exact Status.setCollision_bit7 b.status
    · rfl
  · rfl

theorem drawColumn_int (v : Vdp) (e : SpriteEntry) (b : SpriteBuf) (p : Nat) :
    (drawColumn v e b p).status.getLsbD 7 = b.status.getLsbD 7 := by
  unfold drawColumn
  split
  · exact mark_int b _ _
  · rfl

theorem draw_int (v : Vdp) (e : SpriteEntry) (b : SpriteBuf) : (draw v e b).status.getLsbD 7 = b.status.getLsbD 7 :=
  List.foldlRecOn (motive := fun d => d.status.getLsbD 7 = b.status.getLsbD 7) (List.range v.spriteExt) (drawColumn v e) rfl
    fun d ih p _ => (drawColumn_int v e d p).trans ih

/-- The walk writes FS, C and 5S, never INT (R262, R265, R270). -/
theorem walk_int (v : Vdp) (k n : Nat) (b : SpriteBuf) : (walk v k n b).status.getLsbD 7 = b.status.getLsbD 7 := by
  induction k generalizing n b with
  | zero => rfl
  | succ k ih =>
    have hfs : (Status.setFs b.status n).getLsbD 7 = b.status.getLsbD 7 :=
      Status.setFs_high b.status n 7 (by decide) (by decide)
    unfold walk
    dsimp only
    split
    · rfl
    · split
      · exact (ih _ _).trans hfs
      · split
        · exact (Status.setFifth_bit7 _).trans hfs
        · exact (ih _ _).trans ((draw_int v _ _).trans hfs)

theorem pass_int (v : Vdp) : (pass v).status.getLsbD 7 = v.status.getLsbD 7 := walk_int v 32 0 (start v.status)

end SpriteBuf

/-- Painting keeps INT, whether the line is rendered, blanked or hidden (R221). -/
theorem renderLine_int (s : State) : (renderLine s).vdp.status.getLsbD 7 = s.vdp.status.getLsbD 7 := by
  by_cases hline : s.vdp.line < 192
  · cases hbl : s.vdp.bl with
    | true =>
      obtain ⟨-, hstatus, -⟩ := renderLine_row s hline hbl
      rw [hstatus]
      split
      · rfl
      · exact SpriteBuf.pass_int s.vdp
    | false => rw [renderLine_blank s hline hbl]; rfl
  · rw [renderLine_hidden s (by omega)]

/-- Painting keeps GINT and INT, and so VBLANK's condition for an NMI (R222). -/
theorem renderLine_vblankRaises (s : State) : (renderLine s).vdp.vblankRaises = s.vdp.vblankRaises := by
  simp only [Vdp.vblankRaises, Vdp.gint, Status.int, renderLine_reg, renderLine_int]

theorem vblankRaises_iff (v : Vdp) : v.vblankRaises = true ↔ v.reg[1].getLsbD 5 = true ∧ v.status.getLsbD 7 = false := by
  simp only [Vdp.vblankRaises, Vdp.gint, Status.int, Bool.and_eq_true, Bool.not_eq_true']

/-- INT after a line step: set on reaching line 192, else as before (R222). -/
theorem vdpLine_int (s : State) :
    (vdpLine s).vdp.status.getLsbD 7 = (decide (s.vdp.line = 191) || s.vdp.status.getLsbD 7) := by
  rw [vdpLine, advanceLine_eq, State.setEnv_vdp, State.setVdp_vdp, renderLine_line]
  by_cases hline : s.vdp.line = 191
  · rw [if_pos hline, Status.setInt_bit7, decide_eq_true hline, Bool.true_or]
  · rw [if_neg hline, renderLine_int, decide_eq_false hline, Bool.false_or]

/-- The events of a line step: one NMI on reaching line 192 with GINT set and INT clear, else none (R222). -/
theorem vdpLine_events (s : State) :
    (vdpLine s).env.events =
      (if s.vdp.line = 191 ∧ s.vdp.vblankRaises = true then [.nmi .vblank] else []) ++ s.env.events := by
  rw [vdpLine, advanceLine_eq, State.setEnv_env, renderLine_line, renderLine_vblankRaises, renderLine_events]
  simp only [Bool.cond_eq_ite, Bool.and_eq_true, decide_eq_true_eq]

/-- Settles O37: painting keeps INT, so the guard that VBLANK reads is the one the line step starts with. -/
theorem vblankSetsIntAndRaises : Obligations.VblankSetsIntAndRaises := by
  unfold Obligations.VblankSetsIntAndRaises
  intro s
  have hevents := vdpLine_events s
  simp only [vblankRaises_iff] at hevents
  exact ⟨vdpLine s, rfl, vdpLine_int s, hevents⟩

end Sys2Proof.Machine
end

section
/-! The port words: the decoder and the encoder are inverse to each other (spec/30_encoding.md R90, R91, R95). -/

namespace Sys2Proof

/-! What the decoder makes of a write or a read on a port of each band (R90). -/

/-- A write to the control port is the first or the second byte of a pair, by wlatch (R91). -/
theorem decodeWrite_control {p : Byte} (h : isVdpControlPort p = true) (l : Latches) (v : Byte) :
    decodeWrite l p v = .ok (if l.wlatch then decodeControl2 p v else .vdpCtrl1 p v) := by
  obtain ⟨hband, hodd⟩ := controlPort_band h
  rw [decodeWrite, if_pos hband, if_pos hodd]
  split <;> rfl

theorem decodeWrite_data {p : Byte} (h : isVdpDataPort p = true) (l : Latches) (v : Byte) :
    decodeWrite l p v = .ok (.vdpDataWr p v) := by
  obtain ⟨hband, heven⟩ := dataPort_band h
  rw [decodeWrite, if_pos hband, if_neg (ne_true_of_eq_false heven)]

theorem decodeWrite_sn {p : Byte} (h : isSnPort p = true) (l : Latches) (v : Byte) :
    decodeWrite l p v = .ok (decodeSn p v) := by
  obtain ⟨hvdp, hband⟩ := snPort_band h
  rw [decodeWrite, if_neg hvdp, if_pos hband]

theorem decodeWrite_ayAddr (l : Latches) (v : Byte) : decodeWrite l 0x50 v = .ok (.ayAddr v) := rfl

theorem decodeWrite_ayWr (l : Latches) (v : Byte) : decodeWrite l 0x51 v = .ok (decodeAyWr l.ayidx v) := rfl

theorem decodeRead_status {p : Byte} (h : isVdpControlPort p = true) : decodeRead p = .ok (.vdpStatusRd p) := by
  obtain ⟨hband, hodd⟩ := controlPort_band h
  rw [decodeRead, if_pos hband, if_pos hodd]

theorem decodeRead_data {p : Byte} (h : isVdpDataPort p = true) : decodeRead p = .ok (.vdpDataRd p) := by
  obtain ⟨hband, heven⟩ := dataPort_band h
  rw [decodeRead, if_pos hband, if_neg (ne_true_of_eq_false heven)]

/-! What the decoder makes of a data byte whose fields are given (R91, R95). -/

section Fields

variable (p : Byte)

theorem decodeControl2_form00 (a : BitVec 6) : decodeControl2 p (0b00#2 ++ a) = .vdpReadSetup p a := by
  obtain ⟨h7, h6, hlow⟩ := control2_bits 0b00#2 a
  rw [decodeControl2, h7, h6, hlow]; rfl

theorem decodeControl2_form01 (a : BitVec 6) : decodeControl2 p (0b01#2 ++ a) = .vdpWriteSetup p a := by
  obtain ⟨h7, h6, hlow⟩ := control2_bits 0b01#2 a
  rw [decodeControl2, h7, h6, hlow]; rfl

theorem decodeControl2_form10 (a : BitVec 6) : decodeControl2 p (0b10#2 ++ a) = .vdpRegForm p a := by
  obtain ⟨h7, h6, hlow⟩ := control2_bits 0b10#2 a
  rw [decodeControl2, h7, h6, hlow]; rfl

theorem decodeControl2_form11 (a : BitVec 6) : decodeControl2 p (0b11#2 ++ a) = .vdpC0 p a := by
  obtain ⟨h7, h6, hlow⟩ := control2_bits 0b11#2 a
  rw [decodeControl2, h7, h6, hlow]; rfl

theorem decodeSn_tone0 (d : BitVec 4) : decodeSn p (0b1000#4 ++ d) = .snLatchTone0 p d := by
  obtain ⟨h7, h6, h5, h4, hlow⟩ := latch_bits 0b1000#4 d
  rw [decodeSn, h7, h6, h5, h4, hlow]; rfl

theorem decodeSn_tone1 (d : BitVec 4) : decodeSn p (0b1010#4 ++ d) = .snLatchTone1 p d := by
  obtain ⟨h7, h6, h5, h4, hlow⟩ := latch_bits 0b1010#4 d
  rw [decodeSn, h7, h6, h5, h4, hlow]; rfl

theorem decodeSn_tone2 (d : BitVec 4) : decodeSn p (0b1100#4 ++ d) = .snLatchTone2 p d := by
  obtain ⟨h7, h6, h5, h4, hlow⟩ := latch_bits 0b1100#4 d
  rw [decodeSn, h7, h6, h5, h4, hlow]; rfl

theorem decodeSn_noise (d : BitVec 4) : decodeSn p (0b1110#4 ++ d) = .snLatchNoise p d := by
  obtain ⟨h7, h6, h5, h4, hlow⟩ := latch_bits 0b1110#4 d
  rw [decodeSn, h7, h6, h5, h4, hlow]; rfl

theorem decodeSn_att (c : BitVec 2) (d : BitVec 4) : decodeSn p (1#1 ++ c ++ 1#1 ++ d) = .snLatchAtt p c d := by
  have hbits : ∀ (c : BitVec 2) (d : BitVec 4), (1#1 ++ c ++ 1#1 ++ d).getLsbD 7 = true ∧ (1#1 ++ c ++ 1#1 ++ d).getLsbD 4 = true ∧
      (1#1 ++ c ++ 1#1 ++ d).extractLsb' 5 2 = c ∧ (1#1 ++ c ++ 1#1 ++ d).extractLsb' 0 4 = d := by decide +kernel
  obtain ⟨h7, h4, hc, hd⟩ := hbits c d
  rw [decodeSn, h7, h4, hc, hd]

theorem decodeSn_data (d : BitVec 7) : decodeSn p (0#1 ++ d) = .snData p d := by
  have hbits : ∀ d : BitVec 7, (0#1 ++ d).getLsbD 7 = false ∧ (0#1 ++ d).extractLsb' 0 7 = d := by decide +kernel
  obtain ⟨h7, hd⟩ := hbits d
  rw [decodeSn, h7, hd]

end Fields

/-- The row an operation on the selected AY register decodes to is the operation itself (41_ay8910.md R151). -/
theorem refineAyWr_tone (r : Fin 6) (v : Byte) : refineAyWr (BitVec.ofNat 4 r) v = .ayWrTone r v := by
  fin_cases r <;> rfl

theorem refineAyWr_amp (i : Fin 3) (v : Byte) : refineAyWr (BitVec.ofNat 4 (8 + i)) v = .ayWrAmp i v := by
  fin_cases i <;> rfl

theorem refineAyWr_eper (i : Fin 2) (v : Byte) : refineAyWr (BitVec.ofNat 4 (11 + i)) v = .ayWrEper i v := by
  fin_cases i <;> rfl

theorem refineAyWr_io (i : Fin 2) (v : Byte) : refineAyWr (BitVec.ofNat 4 (14 + i)) v = .ayWrIo i v := by
  fin_cases i <;> rfl

/-- Settles O2: the port picks the band, and the fields of the byte (or the row's latches) pick the row within it. -/
theorem decodeOfEncodeIsIdentity : Obligations.DecodeOfEncodeIsIdentity := by
  unfold Obligations.DecodeOfEncodeIsIdentity
  intro i w hwf hw
  cases i with
  | vdpCtrl1 p v => cases hw; rw [decodeWord_writeWord, decodeWrite_control hwf]; rfl
  | vdpReadSetup p a =>
    cases hw; rw [decodeWord_writeWord, decodeWrite_control hwf]; exact congrArg _ (decodeControl2_form00 p a)
  | vdpWriteSetup p a =>
    cases hw; rw [decodeWord_writeWord, decodeWrite_control hwf]; exact congrArg _ (decodeControl2_form01 p a)
  | vdpRegForm p a =>
    cases hw; rw [decodeWord_writeWord, decodeWrite_control hwf]; exact congrArg _ (decodeControl2_form10 p a)
  | vdpC0 p a =>
    cases hw; rw [decodeWord_writeWord, decodeWrite_control hwf]; exact congrArg _ (decodeControl2_form11 p a)
  | vdpDataWr p v => cases hw; rw [decodeWord_writeWord, decodeWrite_data hwf]
  | vdpDataRd p => cases hw; rw [decodeWord_readWord, decodeRead_data hwf]
  | vdpStatusRd p => cases hw; rw [decodeWord_readWord, decodeRead_status hwf]
  | snLatchTone0 p d => cases hw; rw [decodeWord_writeWord, decodeWrite_sn hwf, decodeSn_tone0]
  | snLatchTone1 p d => cases hw; rw [decodeWord_writeWord, decodeWrite_sn hwf, decodeSn_tone1]
  | snLatchTone2 p d => cases hw; rw [decodeWord_writeWord, decodeWrite_sn hwf, decodeSn_tone2]
  | snLatchNoise p d => cases hw; rw [decodeWord_writeWord, decodeWrite_sn hwf, decodeSn_noise]
  | snLatchAtt p c d => cases hw; rw [decodeWord_writeWord, decodeWrite_sn hwf, decodeSn_att]
  | snData p d => cases hw; rw [decodeWord_writeWord, decodeWrite_sn hwf, decodeSn_data]
  | ayAddr v => cases hw; rw [decodeWord_writeWord, decodeWrite_ayAddr]
  | ayWr v => cases hw; rw [decodeWord_writeWord, decodeWrite_ayWr]; rfl
  | ayWrTone r v => cases hw; rw [decodeWord_writeWord, decodeWrite_ayWr]; exact congrArg _ (refineAyWr_tone r v)
  | ayWrNoise v => cases hw; rw [decodeWord_writeWord, decodeWrite_ayWr]; rfl
  | ayWrMixer v => cases hw; rw [decodeWord_writeWord, decodeWrite_ayWr]; rfl
  | ayWrAmp i v => cases hw; rw [decodeWord_writeWord, decodeWrite_ayWr]; exact congrArg _ (refineAyWr_amp i v)
  | ayWrEper i v => cases hw; rw [decodeWord_writeWord, decodeWrite_ayWr]; exact congrArg _ (refineAyWr_eper i v)
  | ayWrShape v => cases hw; rw [decodeWord_writeWord, decodeWrite_ayWr]; rfl
  | ayWrIo i v => cases hw; rw [decodeWord_writeWord, decodeWrite_ayWr]; exact congrArg _ (refineAyWr_io i v)
  | ayRd => cases hw; rw [decodeWord_readWord]; rfl
  | frameExec => cases hw
  | vdpLine => cases hw
  | psgClock c => cases hw
  | snTick => cases hw
  | ayTick => cases hw
  | mix => cases hw
  | resampleAndDeliver => cases hw

/-- An operation is well formed and its word is `w`. -/
def Encodes (i : Instr) (w : PortWord) : Prop := i.wellFormed = true ∧ encode i = some w

/-- The fields of a port word: direction, port, data (R90). -/
theorem portWord_split (w : PortWord) : w.extractLsb' 16 1 ++ w.port ++ w.data = w := by
  rw [PortWord.port, PortWord.data, BitVec.extractLsb'_append_extractLsb'_eq_extractLsb' (show 16 = 8 + 8 from rfl),
    BitVec.extractLsb'_append_extractLsb'_eq_extractLsb' (show 8 = 0 + 8 from rfl)]
  exact BitVec.extractLsb'_eq_self

theorem writeWord_of_isWrite {w : PortWord} (h : w.isWrite = true) : writeWord w.port w.data = w := by
  have hdir : w.extractLsb' 16 1 = 1#1 := by
    have hbit : w.getLsbD 16 = true := h
    apply BitVec.eq_of_getLsbD_eq
    intro k hk
    obtain rfl : k = 0 := by omega
    rw [BitVec.getLsbD_extractLsb', hbit]; rfl
  conv_rhs => rw [← portWord_split w, hdir]
  rfl

theorem encodes_decodeControl2 {p : Byte} (h : isVdpControlPort p = true) (v : Byte) :
    Encodes (decodeControl2 p v) (writeWord p v) := by
  obtain ⟨k, a, rfl⟩ : ∃ (k : BitVec 2) (a : BitVec 6), v = k ++ a := ⟨_, _, control2_split v⟩
  obtain rfl | rfl | rfl | rfl : k = 0b00#2 ∨ k = 0b01#2 ∨ k = 0b10#2 ∨ k = 0b11#2 := by revert k; decide
  · rw [decodeControl2_form00]; exact ⟨h, rfl⟩
  · rw [decodeControl2_form01]; exact ⟨h, rfl⟩
  · rw [decodeControl2_form10]; exact ⟨h, rfl⟩
  · rw [decodeControl2_form11]; exact ⟨h, rfl⟩

/-- Every byte is an SN byte of one of the six rows (R95). -/
theorem sn_split (v : Byte) : (∃ d : BitVec 7, v = 0#1 ++ d) ∨ (∃ (c : BitVec 2) (d : BitVec 4), v = 1#1 ++ c ++ 1#1 ++ d) ∨
    ∃ d : BitVec 4, v = 0b1000#4 ++ d ∨ v = 0b1010#4 ++ d ∨ v = 0b1100#4 ++ d ∨ v = 0b1110#4 ++ d := by
  rcases h7 : v.getLsbD 7 with _ | _
  · exact .inl ⟨v.extractLsb' 0 7, by revert v; decide +kernel⟩
  rcases h4 : v.getLsbD 4 with _ | _
  · exact .inr (.inr ⟨v.extractLsb' 0 4, by revert v; decide +kernel⟩)
  · exact .inr (.inl ⟨v.extractLsb' 5 2, v.extractLsb' 0 4, by revert v; decide +kernel⟩)

theorem encodes_decodeSn {p : Byte} (h : isSnPort p = true) (v : Byte) : Encodes (decodeSn p v) (writeWord p v) := by
  obtain ⟨d, rfl⟩ | ⟨c, d, rfl⟩ | ⟨d, rfl | rfl | rfl | rfl⟩ := sn_split v
  · rw [decodeSn_data]; exact ⟨h, rfl⟩
  · rw [decodeSn_att]; exact ⟨h, rfl⟩
  · rw [decodeSn_tone0]; exact ⟨h, rfl⟩
  · rw [decodeSn_tone1]; exact ⟨h, rfl⟩
  · rw [decodeSn_tone2]; exact ⟨h, rfl⟩
  · rw [decodeSn_noise]; exact ⟨h, rfl⟩

/-- Whichever row AY.WR is refined to, its word is AY.WR's (R97). -/
theorem encodes_refineAyWr (r : BitVec 4) (v : Byte) : Encodes (refineAyWr r v) (writeWord 0x51 v) := by
  unfold refineAyWr
  split_ifs <;> exact ⟨rfl, rfl⟩

theorem encodes_decodeAyWr (r : Option (BitVec 4)) (v : Byte) : Encodes (decodeAyWr r v) (writeWord 0x51 v) := by
  cases r with
  | none => exact ⟨rfl, rfl⟩
  | some r => exact encodes_refineAyWr r v

/-- The decoder's two tests of a VDP port are the bands of the rows. -/
theorem isVdpControlPort_of_band {p : Byte} (h : p &&& 0xE0 = 0xA0) (h0 : p.getLsbD 0 = true) : isVdpControlPort p = true := by
  revert p; decide +kernel

theorem isVdpDataPort_of_band {p : Byte} (h : p &&& 0xE0 = 0xA0) (h0 : ¬ p.getLsbD 0 = true) : isVdpDataPort p = true := by
  revert p; decide +kernel

theorem encodes_of_decodeWrite {l : Latches} {p v : Byte} {i : Instr} (h : decodeWrite l p v = .ok i) :
    Encodes i (writeWord p v) := by
  unfold decodeWrite at h
  split at h
  case isTrue hband =>
    split at h
    case isTrue hodd =>
      have hport := isVdpControlPort_of_band hband hodd
      split at h <;> cases h
      · exact encodes_decodeControl2 hport v
      · exact ⟨hport, rfl⟩
    case isFalse heven => cases h; exact ⟨isVdpDataPort_of_band hband heven, rfl⟩
  case isFalse =>
    split at h
    case isTrue hsn => cases h; exact encodes_decodeSn (beq_iff_eq.2 hsn) v
    case isFalse =>
      split at h
      case isTrue haddr => cases h; rw [haddr]; exact ⟨rfl, rfl⟩
      case isFalse =>
        split at h
        case isTrue hdata => cases h; rw [hdata]; exact encodes_decodeAyWr l.ayidx v
        case isFalse => cases h

theorem encodes_of_decodeRead {p : Byte} {i : Instr} (h : decodeRead p = .ok i) : Encodes i (readWord p) := by
  unfold decodeRead at h
  split at h
  case isTrue hband =>
    split at h <;> cases h
    case isTrue hodd => exact ⟨isVdpControlPort_of_band hband hodd, rfl⟩
    case isFalse heven => exact ⟨isVdpDataPort_of_band hband heven, rfl⟩
  case isFalse =>
    split at h
    case isTrue hay => cases h; rw [hay]; exact ⟨rfl, rfl⟩
    case isFalse => cases h

/-- Settles O3: a write word is its port and its byte, and the decoder splits that byte where the encoder joins it. -/
theorem decodedWordIsTheEncoding : Obligations.DecodedWordIsTheEncoding := by
  unfold Obligations.DecodedWordIsTheEncoding
  intro l w i h
  unfold decodeWord at h
  split at h
  case isTrue hw =>
    have henc := encodes_of_decodeWrite h
    rw [writeWord_of_isWrite hw] at henc
    rw [if_pos hw]; exact henc
  case isFalse hr => rw [if_neg hr]; exact encodes_of_decodeRead h

end Sys2Proof
end

section
/-! The invariant, component by component: what each operation of the block keeps of it (spec/10_state.md). -/

namespace Sys2Proof.Machine

/-- The VDP's part of the invariant but for the line: canonical VRAM, masked registers (R21, R25). -/
def Vdp.Legal (v : Vdp) : Prop := v.vram.wf = true ∧ v.RegsMasked

/-- The SN's part: legal outputs, counted samples (R40, R53). -/
def Sn.Legal (c : Sn) : Prop := c.OutLegal ∧ c.psgsamps = c.snbuf.length

/-- The AY's part: masked registers, counters in range, counted samples (R44, R47 to R49, R53). -/
def Ay.Legal (a : Ay) : Prop := a.RegsMasked ∧ a.CountersInRange ∧ a.sgmpsgsamps = a.aybuf.length

theorem State.inv_iff (s : State) : s.Inv ↔
    s.vdp.Legal ∧ s.vdp.line < s.numScanlines ∧ s.sn.Legal ∧ s.ay.Legal ∧ s.sched.psgcycs < 16 :=
  ⟨fun h => ⟨⟨h.vram, h.vdpRegs⟩, h.line, ⟨h.out, h.psgsamps⟩, ⟨h.ayRegs, h.counters, h.sgmpsgsamps⟩, h.psgcycs⟩,
    fun ⟨hv, hl, hc, ha, hp⟩ => ⟨hv.1, hv.2, hl, hc.1, hc.2, ha.1, ha.2.1, ha.2.2, hp⟩⟩

/-! ## The VDP -/

theorem Vdp.Legal.update {v : Vdp} (h : v.Legal) {w : Vdp} (hvram : w.vram = v.vram) (hreg : w.reg = v.reg) : w.Legal := by
  unfold Legal RegsMasked; rw [hvram, hreg]; exact h

theorem Vdp.Legal.storeReg {v : Vdp} (h : v.Legal) (r : Fin 8) (x : Byte) : (v.storeReg r x).Legal := by
  refine ⟨h.1, fun q => ?_⟩
  by_cases hq : q = r
  · rw [hq, storeReg_same, BitVec.and_assoc, BitVec.and_self]
  · rw [storeReg_other v x hq]; exact h.2 q

theorem Vdp.Legal.storeByte {v : Vdp} (h : v.Legal) (x : Byte) : (v.storeByte x).Legal :=
  ⟨Memory.wf_write h.1 v.vaddr.isLt x, h.2⟩

/-! ## The SN -/

theorem Sn.volume_legal (c : Sn) (i : Fin 4) : c.volume i = 0 ∨ ∃ k : Fin 16, c.volume i = vtSn[k] :=
  .inr ⟨c.att[i].toFin, rfl⟩

/-- A tick leaves each output 0, a volume, or as it was (40_sn76489.md R127). -/
theorem Sn.OutLegal.tick {c : Sn} (h : c.OutLegal) : c.tick.OutLegal := by
  intro i
  by_cases hi : i.val < 3
  · have hout : c.tick.out[i] = _ := tick_out_tone c i hi i.isLt
    rw [hout]
    split
    · split
      · exact c.volume_legal i
      · exact .inl rfl
    · exact h i
  · obtain rfl : i = 3 := by omega
    have hout : c.tick.out[(3 : Fin 4)] = _ := tick_out_noise c
    rw [hout]
    split
    · exact c.volume_legal 3
    · exact .inl rfl

theorem Sn.Legal.tick {c : Sn} (h : c.Legal) : c.tick.Legal :=
  ⟨h.1.tick, by rw [tick_psgsamps, tick_snbuf, List.length_append, h.2]; rfl⟩

theorem Sn.Legal.update {c : Sn} (h : c.Legal) {d : Sn} (hout : d.out = c.out) (hbuf : d.snbuf = c.snbuf)
    (hcount : d.psgsamps = c.psgsamps) : d.Legal := by
  unfold Legal OutLegal; rw [hout, hbuf, hcount]; exact h

/-! ## The AY -/

namespace Ay

theorem RegsMasked.storeReg {a : Ay} (h : a.RegsMasked) (r : Fin 16) (x : Byte) : (a.storeReg r x).RegsMasked := by
  intro q
  by_cases hq : q = r
  · rw [hq, storeReg_same, BitVec.and_assoc, BitVec.and_self]
  · rw [storeReg_other a x hq]; exact h q

theorem Legal.storeReg {a : Ay} (h : a.Legal) (r : Fin 16) (x : Byte) : (a.storeReg r x).Legal :=
  ⟨h.1.storeReg r x, h.2⟩

theorem Legal.restartEnvelope {a : Ay} (h : a.Legal) : a.restartEnvelope.Legal :=
  ⟨h.1, ⟨h.2.1.1, h.2.1.2.1, Nat.zero_le _⟩, h.2.2⟩

/-- A masked register is at most its mask. -/
theorem RegsMasked.le_mask {a : Ay} (h : a.RegsMasked) (r : Fin 16) : a.reg[r].toNat ≤ ayMask[r].toNat := by
  rw [← h r, BitVec.toNat_and]; exact Nat.and_le_right

/-- The periods of masked registers (R46). -/
theorem RegsMasked.tperiod_le {a : Ay} (h : a.RegsMasked) (i : Fin 3) : a.tperiod i ≤ 4095 := by
  have hmask : ∀ i : Fin 3, ayMask[2 * i.val + 1].toNat = 15 := by decide
  have hlow := a.reg[2 * i.val].isLt
  have hhigh : a.reg[2 * i.val + 1].toNat ≤ ayMask[2 * i.val + 1].toNat := h.le_mask ⟨2 * i.val + 1, by omega⟩
  rw [hmask] at hhigh
  rw [tperiod_eq]; omega

theorem RegsMasked.nperiod_le {a : Ay} (h : a.RegsMasked) : a.nperiod ≤ 31 := by
  have hreg : a.reg[6].toNat ≤ 31 := h.le_mask 6
  unfold nperiod; omega

theorem eperiod_le (a : Ay) : a.eperiod ≤ 65535 := by
  have hlow := a.reg[11].isLt
  have hhigh := a.reg[12].isLt
  rw [eperiod_eq]; omega

/-- A counter that a tick does not restart stays below its period (R161, decision D27). -/
theorem CountersInRange.tick {a : Ay} (h : a.RegsMasked) : a.tick.CountersInRange := by
  refine ⟨fun i => ?_, ?_, ?_⟩
  · have hp := h.tperiod_le i
    rw [tick_tcnt]; split <;> omega
  · have hp := h.nperiod_le
    rw [tick_ncnt, Nat.shiftLeft_eq]; split <;> omega
  · have hp := a.eperiod_le
    rw [(tick_envelope a).1, Nat.shiftLeft_eq]; split <;> omega

theorem Legal.tick {a : Ay} (h : a.Legal) : a.tick.Legal := by
  refine ⟨?_, CountersInRange.tick h.1, ?_⟩
  · unfold RegsMasked; rw [tick_reg]; exact h.1
  · rw [tick_sgmpsgsamps, tick_aybuf, List.length_append, h.2.2]; rfl

end Ay

/-! ## The operations -/

namespace State

/-- An update that keeps the SN, the AY, the parameters and the accumulator keeps the invariant where the VDP stays legal. -/
theorem Inv.of_vdp {s t : State} (h : s.Inv) (hv : t.vdp.Legal) (hline : t.vdp.line < t.numScanlines) (hsn : t.sn = s.sn)
    (hay : t.ay = s.ay) (hcyc : t.sched.psgcycs = s.sched.psgcycs) : t.Inv := by
  obtain ⟨-, -, hc, ha, hp⟩ := s.inv_iff.1 h
  rw [inv_iff, hsn, hay, hcyc]
  exact ⟨hv, hline, hc, ha, hp⟩

theorem Inv.setSn {s : State} (h : s.Inv) {c : Sn} (hc : c.Legal) : (s.setSn c).Inv := by
  obtain ⟨hv, hline, -, ha, hp⟩ := s.inv_iff.1 h
  exact (inv_iff _).2 ⟨hv, hline, hc, ha, hp⟩

theorem Inv.setAy {s : State} (h : s.Inv) {a : Ay} (ha : a.Legal) : (s.setAy a).Inv := by
  obtain ⟨hv, hline, hc, -, hp⟩ := s.inv_iff.1 h
  exact (inv_iff _).2 ⟨hv, hline, hc, ha, hp⟩

theorem Inv.setSched {s : State} (h : s.Inv) {x : Sched} (hx : x.psgcycs < 16) : (s.setSched x).Inv := by
  obtain ⟨hv, hline, hc, ha, -⟩ := s.inv_iff.1 h
  exact (inv_iff _).2 ⟨hv, hline, hc, ha, hx⟩

/-- The invariant says nothing of the inputs and outputs. -/
theorem Inv.setEnv {s : State} (h : s.Inv) (e : Env) : (s.setEnv e).Inv := (inv_iff _).2 (s.inv_iff.1 h)

theorem Inv.emit {s : State} (h : s.Inv) (e : Event) : (s.emit e).Inv := h.setEnv _

end State

/-- The register number is the low three bits (R195). -/
theorem regNumber_val (a : BitVec 6) : (regNumber a).val = a.toNat % 8 := BitVec.extractLsb'_toNat 0 3 a

/-- The register form as one update: the assembly, the register, and the NMI where one is raised (R195, R197). -/
theorem vdpRegForm_eq (a : BitVec 6) (s : State) :
    vdpRegForm a s = (s.setVdp ((s.vdp.assemble a).storeReg (regNumber a) s.vdp.dlatch)).setEnv { s.env with
      events := (bif regWriteRaises (regNumber a) (s.vdp.assemble a) ((s.vdp.assemble a).storeReg (regNumber a) s.vdp.dlatch)
        then [.nmi .regWrite] else []) ++ s.env.events } := by
  rw [vdpRegForm, vdpRegWr_eq]; rfl

/-- Form 11 is the write setup or the register form, by CTRL_C0_ACTION (R196). -/
theorem vdpC0_addressOnly (a : BitVec 6) {s : State} (h : s.cfg.c0Action = .addressOnly) : vdpC0 a s = vdpWriteSetup a s := by
  unfold vdpC0; rw [h]; rfl

theorem vdpC0_registerWrite (a : BitVec 6) {s : State} (h : s.cfg.c0Action = .registerWrite) : vdpC0 a s = vdpRegForm a s := by
  unfold vdpC0; rw [h]; rfl

theorem vdpC0_cases (a : BitVec 6) (s : State) :
    vdpC0 a s = vdpWriteSetup a s ∨ s.cfg.c0Action = .registerWrite ∧ vdpC0 a s = vdpRegForm a s := by
  cases h : s.cfg.c0Action with
  | addressOnly => exact .inl (vdpC0_addressOnly a h)
  | registerWrite => exact .inr ⟨rfl, vdpC0_registerWrite a h⟩

theorem onlyAy_ayWr (v : Byte) (s : State) : OnlyAy s (ayWr v s) := by
  rw [ayWr_eq]
  split <;> exact State.onlyAy_setAy s _

theorem ayWr_legal (v : Byte) {s : State} (h : s.ay.Legal) : (ayWr v s).ay.Legal := by
  rw [ayWr_eq]
  split
  · exact (h.storeReg 13 v).restartEnvelope
  · exact h.storeReg _ v

/-- Every port operation keeps the VDP and the AY legal: the registers are stored through their masks, and a data write
lies in VRAM. -/
theorem portEffect_legal (i : Instr) {s : State} (hv : s.vdp.Legal) (ha : s.ay.Legal) :
    (portEffect i s).vdp.Legal ∧ (portEffect i s).ay.Legal := by
  have hassemble : ∀ a, (s.vdp.assemble a).Legal := fun a => hv.update rfl rfl
  have hregForm : ∀ a, (vdpRegForm a s).vdp.Legal ∧ (vdpRegForm a s).ay.Legal := by
    intro a
    rw [vdpRegForm_eq]
    exact ⟨(hassemble a).storeReg _ _, ha⟩
  cases i with
  | vdpRegForm _ a => exact hregForm a
  | vdpC0 _ a =>
    show (vdpC0 a s).vdp.Legal ∧ (vdpC0 a s).ay.Legal
    obtain h | ⟨-, h⟩ := vdpC0_cases a s <;> rw [h]
    · exact ⟨hassemble a, ha⟩
    · exact hregForm a
  | vdpDataWr _ v => exact ⟨(hv.storeByte v).update rfl rfl, ha⟩
  | ayWr v => exact ⟨hv.update (congrArg (·.vram) (onlyAy_ayWr v s).1) (congrArg (·.reg) (onlyAy_ayWr v s).1), ayWr_legal v ha⟩
  | ayWrTone r v => exact ⟨hv, ha.storeReg _ v⟩
  | ayWrNoise v => exact ⟨hv, ha.storeReg _ v⟩
  | ayWrMixer v => exact ⟨hv, ha.storeReg _ v⟩
  | ayWrAmp i v => exact ⟨hv, ha.storeReg _ v⟩
  | ayWrEper i v => exact ⟨hv, ha.storeReg _ v⟩
  | ayWrShape v => exact ⟨hv, (ha.storeReg 13 v).restartEnvelope⟩
  | ayWrIo i v => exact ⟨hv, ha.storeReg _ v⟩
  | _ => exact ⟨hv, ha⟩

theorem portEffect_inv (i : Instr) {s : State} (h : s.Inv) : (portEffect i s).Inv := by
  obtain ⟨hv, hline, hc, ha, hp⟩ := s.inv_iff.1 h
  obtain ⟨hv', ha'⟩ := portEffect_legal i hv ha
  have hframe := portEffect_frame i s
  refine (State.inv_iff _).2 ⟨hv', ?_, hc.update hframe.out hframe.snbuf hframe.psgsamps, ha', ?_⟩
  · rw [hframe.line, State.numScanlines, hframe.cfg]; exact hline
  · rw [hframe.sched]; exact hp

theorem busOp_inv (w : PortWord) {s : State} (h : s.Inv) : (busOp w s).Inv := by
  unfold busOp
  split
  · exact portEffect_inv _ h
  · exact h

theorem cpuStep_inv {s : State} (h : s.Inv) : (cpuStep s).1.Inv := by
  have hbegin : (beginCpuStep s).Inv := State.Inv.setEnv (h.setSched (x := { s.sched with stepPenalty := 0 }) h.psgcycs) _
  exact (runCpu_induct (P := State.Inv) (fun w _ h => busOp_inv w h) (nextCpuStep s).1 _ hbegin).emit _

theorem psgClock_inv {c : Nat} {s t : State} (h : s.Inv) (ht : psgClock c s = .next t) : t.Inv := by
  obtain ⟨-, -, hc, ha, -⟩ := s.inv_iff.1 h
  rw [psgClock_next ht]
  exact State.Inv.setAy
    (State.Inv.setSn (h.setSched (Nat.mod_lt _ (by decide))) (Function.Iterate.rec Sn.Legal hc (fun _ h => h.tick) _))
    (Function.Iterate.rec Ay.Legal ha (fun _ h => h.tick) _)

/-- A line step moves to a line of the frame: from the last one it wraps (43_vdp_render.md R221). -/
theorem vdpLine_line (s : State) :
    (vdpLine s).vdp.line = if s.vdp.line + 1 = s.numScanlines then 0 else s.vdp.line + 1 := by
  rw [vdpLine, advanceLine_eq, State.setEnv_vdp, State.setVdp_vdp, renderLine_line, State.numScanlines, renderLine_cfg]

@[simp] theorem vdpLine_vram (s : State) : (vdpLine s).vdp.vram = s.vdp.vram := by
  rw [vdpLine, advanceLine_eq, State.setEnv_vdp, State.setVdp_vdp, renderLine_vram]

@[simp] theorem vdpLine_reg (s : State) : (vdpLine s).vdp.reg = s.vdp.reg := by
  rw [vdpLine, advanceLine_eq, State.setEnv_vdp, State.setVdp_vdp, renderLine_reg]

@[simp] theorem vdpLine_sn (s : State) : (vdpLine s).sn = s.sn := by
  rw [vdpLine, advanceLine_eq, State.setEnv_sn, State.setVdp_sn, renderLine_sn]

@[simp] theorem vdpLine_ay (s : State) : (vdpLine s).ay = s.ay := by
  rw [vdpLine, advanceLine_eq, State.setEnv_ay, State.setVdp_ay, renderLine_ay]

@[simp] theorem vdpLine_sched (s : State) : (vdpLine s).sched = s.sched := by
  rw [vdpLine, advanceLine_eq, State.setEnv_sched, State.setVdp_sched, renderLine_sched]

@[simp] theorem vdpLine_cfg (s : State) : (vdpLine s).cfg = s.cfg := by
  rw [vdpLine, advanceLine_eq, State.setEnv_cfg, State.setVdp_cfg, renderLine_cfg]

@[simp] theorem vdpLine_numScanlines (s : State) : (vdpLine s).numScanlines = s.numScanlines := by
  rw [State.numScanlines, vdpLine_cfg]

theorem vdpLine_inv {s : State} (h : s.Inv) : (vdpLine s).Inv := by
  obtain ⟨hv, hline, -⟩ := s.inv_iff.1 h
  refine h.of_vdp (hv.update (vdpLine_vram s) (vdpLine_reg s)) ?_ (vdpLine_sn s) (vdpLine_ay s) (by rw [vdpLine_sched])
  rw [vdpLine_line, vdpLine_numScanlines]
  split <;> omega

/-- MIX replaces samples in place (45_mixer_scheduler.md R295). -/
theorem mixStreams_length (o : MixOverflow) (n : Nat) (sn ay : List Sample) : (mixStreams o n sn ay).length = sn.length := by
  induction n generalizing sn ay with
  | zero => simp only [mixStreams]
  | succ n ih =>
    cases sn with
    | nil => rfl
    | cons x sn =>
      cases ay with
      | nil => rfl
      | cons y ay => simp only [mixStreams, List.length_cons, ih]

theorem mix_inv {s : State} (h : s.Inv) : (mix s).Inv := by
  obtain ⟨-, -, hc, -, -⟩ := s.inv_iff.1 h
  exact h.setSn ⟨hc.1, hc.2.trans (mixStreams_length _ _ _ _).symm⟩

theorem resampleAndDeliver_inv {s : State} (h : s.Inv) : (resampleAndDeliver s).Inv :=
  State.Inv.emit
    (h.setSched (x := { s.sched with rs := mixedStream s :: s.sched.rs, outbuf := (resampled s).out }) h.psgcycs) _

theorem clearBuffers_inv {s : State} (h : s.Inv) : (clearBuffers s).Inv := by
  obtain ⟨-, -, hc, ha, -⟩ := s.inv_iff.1 h
  exact State.Inv.setAy (a := { s.ay with aybuf := [], sgmpsgsamps := 0 })
    (h.setSn (c := { s.sn with snbuf := [], psgsamps := 0 }) ⟨hc.1, rfl⟩) ⟨ha.1, ha.2.1, rfl⟩

theorem frameExec_inv {s t : State} (h : s.Inv) (ht : frameExec s = .next t) : t.Inv := by
  obtain ⟨u, hu, rfl⟩ := frameExec_next ht
  exact resampleAndDeliver_inv (mix_inv (scanlines_induct (P := State.Inv)
    (fun s u h hu => psgClock_inv (cpuStep_inv h) hu) (fun s e h => vdpLine_inv (h.setSched h.psgcycs)) hu
    (clearBuffers_inv h)))

/-- A port operation does in exec what it does on the bus (45_mixer_scheduler.md R294). -/
theorem exec_portEffect {i : Instr} {w : PortWord} (h : encode i = some w) (s : State) : exec i s = .next (portEffect i s) := by
  cases i with
  | frameExec => cases h
  | vdpLine => cases h
  | psgClock c => cases h
  | snTick => cases h
  | ayTick => cases h
  | mix => cases h
  | resampleAndDeliver => cases h
  | _ => rfl

theorem exec_inv (i : Instr) {s t : State} (h : s.Inv) (ht : exec i s = .next t) : t.Inv := by
  cases hw : encode i with
  | some w =>
    rw [exec_portEffect hw] at ht
    cases ht
    exact portEffect_inv i h
  | none =>
    obtain ⟨-, -, hc, ha, -⟩ := s.inv_iff.1 h
    cases i with
    | frameExec => exact frameExec_inv h ht
    | vdpLine => cases ht; exact vdpLine_inv h
    | psgClock c => exact psgClock_inv h ht
    | snTick => rw [snTick_next ht]; exact h.setSn hc.tick
    | ayTick => rw [ayTick_next ht]; exact h.setAy ha.tick
    | mix => cases ht; exact mix_inv h
    | resampleAndDeliver => cases ht; exact resampleAndDeliver_inv h
    | _ => cases hw

/-! ## Power-on and reset -/

/-- Whatever is drawn, each element is brought into its range: a register through its mask, an output through the volume
table (70_reset_and_hazards.md R340). -/
theorem powerOn_inv (d : Draws) (cfg : Setup) (env : Env) : (State.powerOn d cfg env).Inv := by
  have hmasked : ∀ {n : Nat} (x m : Vector Byte n) (r : Fin n),
      (Vector.zipWith (· &&& ·) x m)[r] &&& m[r] = (Vector.zipWith (· &&& ·) x m)[r] := by
    intro n x m r
    simp only [Fin.getElem_fin, Vector.getElem_zipWith, BitVec.and_assoc, BitVec.and_self]
  refine (State.inv_iff _).2 ⟨⟨Memory.wf_ofBytes _, hmasked _ _⟩, ?_, ⟨?_, rfl⟩, ⟨hmasked _ _, ⟨?_, ?_, ?_⟩, rfl⟩, Nat.zero_lt_succ 15⟩
  · exact Nat.lt_trans (Nat.zero_lt_succ 191) (visible_lt_numScanlines _)
  · intro i
    have hout : (Sn.powerOn d).out[i] = d.out[i].elim 0 fun k => vtSn[k] := Vector.getElem_map _ _
    show (Sn.powerOn d).out[i] = 0 ∨ ∃ k : Fin 16, (Sn.powerOn d).out[i] = vtSn[k]
    rw [hout]
    cases d.out[i] with
    | none => exact .inl rfl
    | some k => exact .inr ⟨k, rfl⟩
  · intro i
    have htcnt : (Ay.powerOn d).tcnt[i] = d.tcnt[i].val := Vector.getElem_map _ _
    show (Ay.powerOn d).tcnt[i] ≤ _
    omega
  · exact Nat.le_of_lt_succ d.ncnt.isLt
  · exact Nat.le_of_lt_succ d.ecnt.isLt

theorem systemReset_inv {s : State} (h : s.Inv) : (systemReset s).Inv := by
  refine State.Inv.emit ?_ _
  unfold resetBlock
  split
  · exact powerOn_inv _ _ _
  · exact h

/-- The state in which the fetched operation runs. -/
def Fetched.state : Fetched → State
  | .run _ s => s
  | .outside s => s
  | .reset s => s

/-- A fetch changes the stream alone. -/
theorem fetch_state (s : State) : ∃ rest, (fetch s).state = s.dropIssue rest := by
  unfold fetch
  split
  · exact ⟨s.env.stream, rfl⟩
  · split <;> exact ⟨_, rfl⟩
  · exact ⟨_, rfl⟩
  · exact ⟨_, rfl⟩

/-- Settles O59: the fetch touches the stream only, and each operation keeps each component legal. -/
theorem stepKeepsInvariant : Obligations.StepKeepsInvariant := by
  unfold Obligations.StepKeepsInvariant
  intro s t h ht
  obtain ⟨rest, hfetch⟩ := fetch_state s
  have hinv : (fetch s).state.Inv := hfetch ▸ h.setEnv _
  unfold step at ht
  cases hf : fetch s with
  | run i u => rw [hf] at hinv ht; exact exec_inv i hinv ht
  | outside u => rw [hf] at hinv ht; cases ht; exact hinv
  | reset u => rw [hf] at hinv ht; cases ht; exact systemReset_inv hinv

/-- Settles O56: the defined elements are power-on's own, and every draw is brought into its range. -/
theorem powerOnGivesDefinedElements : Obligations.PowerOnGivesDefinedElements := by
  unfold Obligations.PowerOnGivesDefinedElements
  intro d cfg env
  exact ⟨rfl, rfl, rfl, rfl, rfl, rfl, rfl, powerOn_inv d cfg env⟩

/-- Settles O58: the machine after reset is a power-on. -/
theorem resetMeetsInvariant : Obligations.ResetMeetsInvariant := by
  unfold Obligations.ResetMeetsInvariant
  exact powerOn_inv _ _ _

end Sys2Proof.Machine
end

section
/-! Fetch and step: where the next operation comes from (spec/30_encoding.md R91, notes/assumptions/2.md and 4.md). -/

namespace Sys2Proof.Machine

/-- Settles O1: each word is a closed term, and a write word outside the bands is refused whatever its data. -/
theorem specWordsDecode : Obligations.SpecWordsDecode := by
  unfold Obligations.SpecWordsDecode
  have houtside : ∀ l x, decodeWord l (writeWord 0xC0 x) = .error (.outsideBlock true 0xC0) ∧
      decodeWord l (writeWord 0x80 x) = .error (.outsideBlock true 0x80) ∧
      decodeWord l (writeWord 0x7F x) = .error (.outsideBlock true 0x7F) ∧
      decodeWord l (writeWord 0x53 x) = .error (.outsideBlock true 0x53) := by
    intro l x
    simp only [decodeWord_writeWord]
    exact ⟨rfl, rfl, rfl, rfl⟩
  exact ⟨rfl, rfl, rfl, rfl, rfl, rfl, rfl, rfl, rfl, rfl, rfl, rfl, rfl, rfl, rfl, rfl, rfl, houtside⟩

section Step

variable {s : State} {rest : List Issue}

theorem step_word_ok {w : PortWord} {i : Instr} (h : s.env.stream = .word w :: rest) (hi : decodeWord s.latches w = .ok i) :
    step s = exec i (s.dropIssue rest) := by
  simp only [step, fetch, h, hi]

theorem step_word_error {w : PortWord} {e : Reject} (h : s.env.stream = .word w :: rest)
    (he : decodeWord s.latches w = .error e) : step s = .next (s.dropIssue rest) := by
  simp only [step, fetch, h, he]

theorem step_op {k : InternalOp} (h : s.env.stream = .op k :: rest) : step s = exec k.instr (s.dropIssue rest) := by
  simp only [step, fetch, h]

theorem step_systemReset (h : s.env.stream = .systemReset :: rest) : step s = .next (systemReset (s.dropIssue rest)) := by
  simp only [step, fetch, h]

theorem step_nil (h : s.env.stream = []) : step s = exec .frameExec s := by
  simp only [step, fetch, h]

end Step

/-- Settles O4: one clause per head of the stream. -/
theorem stepRunsTheNextOperation : Obligations.StepRunsTheNextOperation := by
  unfold Obligations.StepRunsTheNextOperation
  intro s rest
  exact ⟨fun _ _ h hi => step_word_ok h hi, fun _ _ h he => step_word_error h he, fun _ h => step_op h,
    fun h => step_systemReset h, fun h => step_nil h⟩

/-- Settles O57: under `reinit` the draws are the opaque ones of the count of resets. -/
theorem systemResetFollowsItsParameter : Obligations.SystemResetFollowsItsParameter := by
  unfold Obligations.SystemResetFollowsItsParameter
  intro s rest h
  constructor
  · intro hcfg
    have hblock : resetBlock (s.dropIssue rest) = s.dropIssue rest := by simp only [resetBlock, State.dropIssue_cfg, hcfg]
    rw [step_systemReset h, systemReset, hblock]; rfl
  · intro hcfg
    have hblock : resetBlock (s.dropIssue rest) =
        State.powerOn (Config.powerOnDraws s.env.resets) s.cfg { s.env with stream := rest, resets := s.env.resets + 1 } := by
      simp only [resetBlock, State.dropIssue_cfg, hcfg, State.dropIssue_env]
    refine ⟨_, step_systemReset h, Config.powerOnDraws s.env.resets, ?_⟩
    rw [systemReset, hblock]
    exact ⟨rfl, rfl, rfl, rfl, rfl, rfl⟩

/-- Only the word of a control write is decoded by wlatch (R91). -/
theorem decodeWord_control {w : PortWord} (h : w.isControlWrite = true) (l : Latches) :
    decodeWord l w = .ok (if l.wlatch then decodeControl2 w.port w.data else .vdpCtrl1 w.port w.data) := by
  obtain ⟨hwrite, hport⟩ : w.isWrite = true ∧ isVdpControlPort w.port = true := by simpa [PortWord.isControlWrite] using h
  rw [decodeWord, if_pos hwrite, decodeWrite_control hport]

theorem decodeWord_not_control {w : PortWord} (h : ¬ w.isControlWrite = true) (b c : Bool) (r : Option (BitVec 4)) :
    decodeWord ⟨b, r⟩ w = decodeWord ⟨c, r⟩ w := by
  unfold decodeWord
  split
  case isTrue hwrite =>
    have hport : ¬ isVdpControlPort w.port = true := fun hp => h (by rw [PortWord.isControlWrite, hwrite, hp]; rfl)
    unfold decodeWrite
    split
    case isTrue hband =>
      rw [if_neg fun hodd => hport (isVdpControlPort_of_band hband hodd), if_neg fun hodd => hport (isVdpControlPort_of_band hband hodd)]
    case isFalse => rfl
  case isFalse => rfl

/-- The three bytes of a port word, low byte first, are the word (notes/assumptions/3.md). -/
theorem word_of_bytes (n : Nat) :
    (BitVec.ofNat 8 (n / 2 ^ 16)).extractLsb' 0 1 ++ BitVec.ofNat 8 (n / 2 ^ 8) ++ BitVec.ofNat 8 n = BitVec.ofNat 17 n := by
  have hdir : (BitVec.ofNat 8 (n / 2 ^ 16)).extractLsb' 0 1 = (BitVec.ofNat 17 n).extractLsb' 16 1 := by
    apply BitVec.eq_of_toNat_eq
    simp only [BitVec.extractLsb'_toNat, BitVec.toNat_ofNat, Nat.shiftRight_eq_div_pow]
    omega
  have hport : BitVec.ofNat 8 (n / 2 ^ 8) = PortWord.port (BitVec.ofNat 17 n) := by
    apply BitVec.eq_of_toNat_eq
    simp only [PortWord.port, BitVec.extractLsb'_toNat, BitVec.toNat_ofNat, Nat.shiftRight_eq_div_pow]
    omega
  have hdata : BitVec.ofNat 8 n = PortWord.data (BitVec.ofNat 17 n) := by
    apply BitVec.eq_of_toNat_eq
    simp only [PortWord.data, BitVec.extractLsb'_toNat, BitVec.toNat_ofNat, Nat.shiftRight_eq_div_pow]
    omega
  rw [hdir, hport, hdata, portWord_split]

/-- A table word is decoded as its port word, under the wlatch of its row. -/
theorem decodeWord_of_decodeTableWord {nbits w : Nat} {i : Instr} (h : decodeTableWord nbits w = some i) :
    decodeWord ⟨tableWlatch (BitVec.ofNat 17 (w % 2 ^ nbits)), none⟩ (BitVec.ofNat 17 (w % 2 ^ nbits)) = .ok i := by
  unfold decodeTableWord decodeBytes at h
  dsimp only at h
  rw [word_of_bytes] at h
  generalize BitVec.ofNat 17 (w % 2 ^ nbits) = pw at h ⊢
  split at h
  case h_1 j rest hj =>
    split at hj
    · cases hd : decodeWord ⟨tableWlatch pw, none⟩ pw with
      | ok k =>
        rw [hd] at hj
        cases hj
        split at h <;> cases h
        rfl
      | error e => rw [hd] at hj; cases hj
    · cases hj
  case h_2 => cases h

/-- A second control byte is one of the four forms (R91). -/
theorem decodeControl2_cases (p v : Byte) : ∃ a, decodeControl2 p v = .vdpReadSetup p a ∨ decodeControl2 p v = .vdpWriteSetup p a ∨
    decodeControl2 p v = .vdpRegForm p a ∨ decodeControl2 p v = .vdpC0 p a := by
  unfold decodeControl2
  refine ⟨v.extractLsb' 0 6, ?_⟩
  split
  · exact .inl rfl
  · exact .inr (.inl rfl)
  · exact .inr (.inr (.inl rfl))
  · exact .inr (.inr (.inr rfl))

/-- Settles O5: placing a word sets wlatch for a control word only, and only those are decoded by it. -/
theorem placedWordRunsNext : Obligations.PlacedWordRunsNext := by
  unfold Obligations.PlacedWordRunsNext
  intro s nbits w i h
  have hdecode := decodeWord_of_decodeTableWord h
  unfold State.withFetchWord placeWord
  generalize BitVec.ofNat 17 (w % 2 ^ nbits) = pw at hdecode ⊢
  by_cases hc : PortWord.isControlWrite pw = true
  · refine ⟨tableWlatch pw, ?_, fun h1 h2 => ?_⟩
    · dsimp only
      rw [if_pos hc]
      exact step_word_ok rfl hdecode
    · exfalso
      rw [decodeWord_control hc] at hdecode
      split at hdecode <;> injection hdecode with hdecode
      · obtain ⟨a, ha⟩ := decodeControl2_cases (PortWord.port pw) (PortWord.data pw)
        obtain ⟨hr, hw, hf, h0⟩ := h2 (PortWord.port pw) a
        rw [hdecode] at ha
        exact ha.elim hr fun ha => ha.elim hw fun ha => ha.elim hf h0
      · exact h1 _ _ hdecode.symm
  · refine ⟨s.vdp.wlatch, ?_, fun _ _ => rfl⟩
    dsimp only
    rw [if_neg hc]
    exact step_word_ok rfl ((decodeWord_not_control hc _ _ none).trans hdecode)

end Sys2Proof.Machine
end

section
/-! The VDP's control and data writes (spec/42_vdp_ports.md R191 to R198). -/

namespace Sys2Proof.Machine

/-- Masking off the low `k` bits and putting others there is an append. -/
theorem low_bits_replaced {m k : Nat} (x mask : BitVec (m + k)) (y : BitVec k)
    (hmask : ∀ b, b < m + k → mask.getLsbD b = decide (k ≤ b)) :
    (x &&& mask) ||| y.setWidth (m + k) = x.extractLsb' k m ++ y := by
  apply BitVec.eq_of_getLsbD_eq
  intro b hb
  rw [BitVec.getLsbD_or, BitVec.getLsbD_and, hmask b hb, BitVec.getLsbD_setWidth, BitVec.getLsbD_append,
    BitVec.getLsbD_extractLsb']
  by_cases hlow : b < k
  · simp [hlow, hb]
  · have hhigh : y.getLsbD b = false := BitVec.getLsbD_of_ge y b (by omega)
    have hadd : k + (b - k) = b := by omega
    have hlt : b - k < m := by omega
    rw [hhigh, hadd]
    simp [hlow, hlt, Nat.le_of_not_lt hlow]

/-- The first byte replaces vaddr bits 7..0 (R191). -/
theorem ctrl1_vaddr (a : VAddr) (v : Byte) : (a &&& 0x3F00) ||| v.setWidth 14 = a.extractLsb' 8 6 ++ v :=
  low_bits_replaced (m := 6) a 0x3F00 v (by decide)

/-- Settles O6: the two masked halves join to the byte under the kept high bits. -/
theorem firstControlByteLatches : Obligations.FirstControlByteLatches := by
  unfold Obligations.FirstControlByteLatches
  intro port v s
  exact ⟨vdpCtrl1 v s, rfl, rfl, ctrl1_vaddr s.vdp.vaddr v, rfl, onlyAddressing_update s.vdp _ _ _, State.onlyVdp_setVdp s _⟩

/-- Settles O7: the refill reads at the assembled address and steps it. -/
theorem readSetupPrefetches : Obligations.ReadSetupPrefetches := by
  unfold Obligations.ReadSetupPrefetches
  intro port a s
  exact ⟨vdpReadSetup a s, rfl, (s.vdp.assemble a).refill_dlatch, (s.vdp.assemble a).refill_vaddr_toNat, rfl,
    onlyAddressing_update s.vdp _ _ _, State.onlyVdp_setVdp s _⟩

/-- Settles O8: a write setup is the assembly alone. -/
theorem writeSetupOnlyAddresses : Obligations.WriteSetupOnlyAddresses := by
  unfold Obligations.WriteSetupOnlyAddresses
  intro port a s
  exact ⟨vdpWriteSetup a s, rfl, rfl, rfl, rfl, onlyAddressing_update s.vdp _ _ _, State.onlyVdp_setVdp s _⟩

/-- Settles O9: the store goes through the mask, and `regWriteRaises_iff` is the NMI's condition. -/
theorem registerFormWritesAndRaises : Obligations.RegisterFormWritesAndRaises := by
  unfold Obligations.RegisterFormWritesAndRaises
  refine ⟨rfl, fun port a s r hr => ?_⟩
  obtain rfl : r = regNumber a := Fin.ext (hr.trans (regNumber_val a).symm)
  have hraises := regWriteRaises_iff (regNumber a) s.vdp.dlatch (s.vdp.assemble a)
  refine ⟨vdpRegForm a s, rfl, ?_⟩
  rw [vdpRegForm_eq]
  refine ⟨storeReg_same _ _ _, fun q hq => storeReg_other _ _ hq, rfl, rfl, ?_, rfl, rfl, rfl, rfl, rfl, rfl, rfl, rfl, rfl, rfl⟩
  rw [State.setEnv_env, Bool.cond_eq_ite, if_congr hraises rfl rfl]
  rfl

/-- Settles O10: each value of CTRL_C0_ACTION selects the meaning of the other row. -/
theorem formC0FollowsItsParameter : Obligations.FormC0FollowsItsParameter := by
  unfold Obligations.FormC0FollowsItsParameter
  intro port a s
  exact ⟨fun h => congrArg Host.Outcome.next (vdpC0_addressOnly a h),
    fun h => ⟨vdpRegForm a s, congrArg Host.Outcome.next (vdpC0_registerWrite a h), rfl⟩⟩

/-- Settles O11: VRAM is canonical, so the byte written is read back and the others are kept. -/
theorem dataWriteStoresAndAdvances : Obligations.DataWriteStoresAndAdvances := by
  unfold Obligations.DataWriteStoresAndAdvances
  intro port x s hwf
  exact ⟨vdpDataWr x s, rfl, Memory.read_write_same hwf x, fun a ha => Memory.read_write_other x ha,
    vaddr_succ_toNat s.vdp.vaddr, rfl, rfl, rfl, rfl, rfl, rfl, State.onlyVdp_setVdp s _⟩

/-- Settles O14: both pairs assemble the address `hi ++ lo`, where the byte is stored and fetched again. -/
theorem vramWriteReadsBack : Obligations.VramWriteReadsBack := by
  unfold Obligations.VramWriteReadsBack
  intro s lo x hi hwf
  have hread : (s.vdp.vram.write (hi ++ lo).toNat x).read (hi ++ lo).toNat = x := Memory.read_write_same hwf x
  refine ⟨_, rfl, ?_⟩
  show Event.readReturned 0xBE ((s.vdp.vram.write (hi ++ lo).toNat x).read (hi ++ lo).toNat) :: s.env.events = _
  rw [hread]

end Sys2Proof.Machine
end

section
/-! The whole-machine rules: what an operation other than a frame can do to VRAM, to INT and to the NMI output
(spec/20_memory.md R71, spec/60_exceptions.md R322, R323). -/

namespace Sys2Proof.Machine

/-- An operation other than a frame is a port operation, a line step, or one that leaves the VDP alone and gives the outside
at most the count of a delivery. -/
theorem exec_cases {i : Instr} {s t : State} (hi : i ≠ .frameExec) (h : exec i s = .next t) :
    t = portEffect i s ∧ i ≠ .vdpLine ∨ i = .vdpLine ∧ t = vdpLine s ∨
    t.vdp = s.vdp ∧ (t.env = s.env ∨ ∃ n, t.env = { s.env with events := .audioReady n :: s.env.events }) := by
  cases hw : encode i with
  | some w =>
    rw [exec_portEffect hw] at h
    cases h
    exact .inl ⟨rfl, fun hl => by rw [hl] at hw; cases hw⟩
  | none =>
    cases i with
    | frameExec => exact absurd rfl hi
    | vdpLine => cases h; exact .inr (.inl ⟨rfl, rfl⟩)
    | psgClock c => rw [psgClock_next h]; exact .inr (.inr ⟨by simp, .inl (by simp)⟩)
    | snTick => rw [snTick_next h]; exact .inr (.inr ⟨by simp, .inl (by simp)⟩)
    | ayTick => rw [ayTick_next h]; exact .inr (.inr ⟨by simp, .inl (by simp)⟩)
    | mix => cases h; exact .inr (.inr ⟨rfl, .inl rfl⟩)
    | resampleAndDeliver => cases h; exact .inr (.inr ⟨rfl, .inr ⟨_, rfl⟩⟩)
    | _ => cases hw

/-- A port operation other than a data write keeps VRAM. -/
theorem portEffect_vram {i : Instr} (hi : ∀ port v, i ≠ .vdpDataWr port v) (s : State) :
    (portEffect i s).vdp.vram = s.vdp.vram := by
  cases i with
  | vdpDataWr port v => exact absurd rfl (hi port v)
  | vdpRegForm _ a => exact congrArg (·.vdp.vram) (vdpRegForm_eq a s)
  | vdpC0 _ a =>
    obtain h | ⟨-, h⟩ := vdpC0_cases a s
    · exact congrArg (·.vdp.vram) h
    · exact congrArg (·.vdp.vram) (h.trans (vdpRegForm_eq a s))
  | ayWr v => exact congrArg (·.vram) (onlyAy_ayWr v s).1
  | _ => rfl

/-- A port operation other than a status read keeps the status. -/
theorem portEffect_status {i : Instr} (hi : ∀ port, i ≠ .vdpStatusRd port) (s : State) :
    (portEffect i s).vdp.status = s.vdp.status := by
  cases i with
  | vdpStatusRd port => exact absurd rfl (hi port)
  | vdpRegForm _ a => exact congrArg (·.vdp.status) (vdpRegForm_eq a s)
  | vdpC0 _ a =>
    obtain h | ⟨-, h⟩ := vdpC0_cases a s
    · exact congrArg (·.vdp.status) h
    · exact congrArg (·.vdp.status) (h.trans (vdpRegForm_eq a s))
  | ayWr v => exact congrArg (·.status) (onlyAy_ayWr v s).1
  | _ => rfl

/-- Settles O55: a line step and the PSGs keep VRAM, and of the port operations only a data write stores. -/
theorem vramChangesOnlyByDataWrite : Obligations.VramChangesOnlyByDataWrite := by
  unfold Obligations.VramChangesOnlyByDataWrite
  intro i s t hframe hdata h a
  obtain ⟨rfl, -⟩ | ⟨-, rfl⟩ | ⟨hvdp, -⟩ := exec_cases hframe h
  · rw [portEffect_vram hdata]
  · rw [vdpLine_vram]
  · rw [hvdp]

/-- Settles O54: a line step sets INT from line 191 only, a status read clears it, the rest keep the status. -/
theorem intChangesOnlyAtVblankAndRead : Obligations.IntChangesOnlyAtVblankAndRead := by
  unfold Obligations.IntChangesOnlyAtVblankAndRead
  intro i s t hframe h
  obtain ⟨rfl, -⟩ | ⟨rfl, rfl⟩ | ⟨hvdp, -⟩ := exec_cases hframe h
  · by_cases hread : ∃ port, i = .vdpStatusRd port
    · obtain ⟨port, rfl⟩ := hread
      have hclear : (portEffect (.vdpStatusRd port) s).vdp.status.getLsbD 7 = false := Status.afterRead_getLsbD s.vdp.status 7
      exact ⟨fun _ hset => absurd hset (by rw [hclear]; decide), fun _ _ => ⟨port, rfl⟩⟩
    · rw [portEffect_status fun port hp => hread ⟨port, hp⟩]
      exact ⟨fun h0 h1 => absurd h1 (by rw [h0]; decide), fun h1 h0 => absurd h1 (by rw [h0]; decide)⟩
  · rw [vdpLine_int]
    constructor
    · intro h0 h1
      rw [h0, Bool.or_false, decide_eq_true_eq] at h1
      exact ⟨rfl, h1⟩
    · intro h1 h0
      rw [h1, Bool.or_true] at h0
      exact absurd h0 (by decide)
  · rw [hvdp]
    exact ⟨fun h0 h1 => absurd h1 (by rw [h0]; decide), fun h1 h0 => absurd h1 (by rw [h0]; decide)⟩

/-- What a register write gives the outside: nothing, or one NMI under R197's condition. -/
theorem vdpRegForm_events (a : BitVec 6) (s : State) :
    (vdpRegForm a s).env.events = s.env.events ∨
    (vdpRegForm a s).env.events = .nmi .regWrite :: s.env.events ∧ a.toNat % 8 = 1 ∧ s.vdp.reg[1].getLsbD 5 = false ∧
      (vdpRegForm a s).vdp.reg[1].getLsbD 5 = true ∧ (vdpRegForm a s).vdp.status.getLsbD 7 = true := by
  rw [vdpRegForm_eq]
  cases hr : regWriteRaises (regNumber a) (s.vdp.assemble a) ((s.vdp.assemble a).storeReg (regNumber a) s.vdp.dlatch) with
  | false => exact .inl rfl
  | true =>
    simp only [regWriteRaises, Bool.and_eq_true, decide_eq_true_eq, Bool.not_eq_true'] at hr
    obtain ⟨⟨⟨hone, hbefore⟩, hafter⟩, hint⟩ := hr
    exact .inr ⟨rfl, by rw [← regNumber_val, hone]; rfl, hbefore, hafter, hint⟩

/-- What a port operation gives the outside: nothing, a read's byte, or the NMI of a register write (60_exceptions.md R322). -/
theorem portEffect_events (i : Instr) (s : State) :
    (portEffect i s).env.events = s.env.events ∨
    (∃ port x, (portEffect i s).env.events = .readReturned port x :: s.env.events) ∨
    ∃ port a, (i = .vdpRegForm port a ∨ i = .vdpC0 port a ∧ s.cfg.c0Action = .registerWrite) ∧ portEffect i s = vdpRegForm a s := by
  cases i with
  | vdpRegForm port a => exact .inr (.inr ⟨port, a, .inl rfl, rfl⟩)
  | vdpC0 port a =>
    obtain h | ⟨hcfg, h⟩ := vdpC0_cases a s
    · exact .inl (congrArg (·.env.events) h)
    · exact .inr (.inr ⟨port, a, .inr ⟨rfl, hcfg⟩, h⟩)
  | vdpDataRd port => exact .inr (.inl ⟨_, _, rfl⟩)
  | vdpStatusRd port => exact .inr (.inl ⟨_, _, rfl⟩)
  | ayRd => exact .inr (.inl ⟨_, _, rfl⟩)
  | ayWr v =>
    obtain ⟨-, -, -, -, henv⟩ := onlyAy_ayWr v s
    exact .inl (congrArg (·.events) henv)
  | _ => exact .inl rfl

/-- Settles O53: the line step and the register write are the two places, by the events each operation gives. -/
theorem nmiHasTwoSources : Obligations.NmiHasTwoSources := by
  unfold Obligations.NmiHasTwoSources
  intro i s t hframe h
  obtain ⟨rfl, -⟩ | ⟨rfl, rfl⟩ | ⟨-, henv | ⟨n, henv⟩⟩ := exec_cases hframe h
  · obtain hev | ⟨port, x, hev⟩ | ⟨port, a, hi, heq⟩ := portEffect_events i s
    · exact .inl hev
    · exact .inr ⟨_, hev, nofun, nofun⟩
    · rw [heq]
      obtain hev | ⟨hev, hone, hgint⟩ := vdpRegForm_events a s
      · exact .inl hev
      · exact .inr ⟨_, hev, nofun, fun _ => ⟨⟨port, a, hi, hone⟩, hgint⟩⟩
  · have hev := vdpLine_events s
    split at hev
    case isTrue hc =>
      obtain ⟨hline, hraises⟩ := hc
      obtain ⟨hgint, hint⟩ := (vblankRaises_iff s.vdp).1 hraises
      exact .inr ⟨_, hev, fun _ => ⟨rfl, hline, hgint, hint, by rw [vdpLine_int, hline]; rfl⟩, nofun⟩
    case isFalse => exact .inl hev
  · exact .inl (by rw [henv])
  · exact .inr ⟨.audioReady n, by rw [henv], nofun, nofun⟩

end Sys2Proof.Machine
end

section
/-! The SN76489AN: its writes, its tick and its noise register (spec/40_sn76489.md). -/

namespace Sys2Proof.Machine

/-! ## Writes -/

/-- The low four bits of a tone period replaced (R121). -/
theorem latchTone_period (f : BitVec 10) (d : BitVec 4) : (f &&& 0x3F0) ||| d.setWidth 10 = f.extractLsb' 4 6 ++ d :=
  low_bits_replaced (m := 6) f 0x3F0 d (by decide)

theorem latchTone_freq_same (c : Sn) (i : Fin 3) (d : BitVec 4) :
    (c.latchTone i d).freq[i] = c.freq[i].extractLsb' 4 6 ++ d := by
  rw [← latchTone_period]; exact Vector.getElem_set_self _

theorem latchTone_freq_other (c : Sn) {i q : Fin 3} (d : BitVec 4) (h : q ≠ i) : (c.latchTone i d).freq[q] = c.freq[q] :=
  Vector.getElem_set_ne i.isLt q.isLt fun hv => h (Fin.ext hv.symm)

/-- An SN write's charge is all that it does outside the SN (R120). -/
theorem onlySnWrite_charge (s : State) (c : Sn) : OnlySnWrite s (s.chargeSnWrite.setSn c) := ⟨rfl, rfl, rfl, rfl, rfl⟩

theorem snLatchTone_spec (c : Fin 3) (d : BitVec 4) (s : State) :
    (snLatchTone c d s).sn.lch.val = c.val ∧ (snLatchTone c d s).sn.ltype = false ∧
    (snLatchTone c d s).sn.freq[c] = s.sn.freq[c].extractLsb' 4 6 ++ d ∧
    (∀ q : Fin 3, q ≠ c → (snLatchTone c d s).sn.freq[q] = s.sn.freq[q]) ∧
    (snLatchTone c d s).sn.att = s.sn.att ∧ (snLatchTone c d s).sn.noise = s.sn.noise ∧
    (snLatchTone c d s).sn.lfsr = s.sn.lfsr ∧ SnGeneratorsKept s.sn (snLatchTone c d s).sn ∧
    OnlySnWrite s (snLatchTone c d s) :=
  ⟨rfl, rfl, latchTone_freq_same s.sn c d, fun _ hq => latchTone_freq_other s.sn d hq, rfl, rfl, rfl,
    ⟨rfl, rfl, rfl, rfl, rfl⟩, onlySnWrite_charge s _⟩

/-- Settles O15: the three rows are one operation, at channels 0, 1 and 2. -/
theorem toneLatchWritesLowBits : Obligations.ToneLatchWritesLowBits := by
  unfold Obligations.ToneLatchWritesLowBits
  intro port d s i c h
  simp only [List.mem_cons, Prod.mk.injEq, List.not_mem_nil, or_false] at h
  obtain ⟨rfl, rfl⟩ | ⟨rfl, rfl⟩ | ⟨rfl, rfl⟩ := h
  · exact ⟨_, rfl, snLatchTone_spec 0 d s⟩
  · exact ⟨_, rfl, snLatchTone_spec 1 d s⟩
  · exact ⟨_, rfl, snLatchTone_spec 2 d s⟩

/-- Settles O16: data bit 3 is dropped and the LFSR takes its seed. -/
theorem noiseLatchReseeds : Obligations.NoiseLatchReseeds := by
  unfold Obligations.NoiseLatchReseeds
  intro port d s
  exact ⟨snLatchNoise d s, rfl, rfl, rfl, BitVec.extractLsb'_toNat 0 3 d, rfl, rfl, rfl, ⟨rfl, rfl, rfl, rfl, rfl⟩,
    onlySnWrite_charge s _⟩

/-- Settles O17: the attenuator is set at the byte's own channel. -/
theorem attenuatorLatchSetsVolume : Obligations.AttenuatorLatchSetsVolume := by
  unfold Obligations.AttenuatorLatchSetsVolume
  intro port c d s
  exact ⟨snLatchAtt c d s, rfl, rfl, rfl, Vector.getElem_set_self _, fun q hq => Vector.getElem_set_ne c.toFin.isLt q.isLt (Ne.symm hq),
    rfl, rfl, rfl, ⟨rfl, rfl, rfl, rfl, rfl⟩, onlySnWrite_charge s _⟩

namespace Sn

/-! The three destinations of a DATA byte (R124). -/

theorem data_att {c : Sn} (h : c.ltype = true) (d : BitVec 7) :
    c.data d = { c with att := c.att.set c.lch (d.extractLsb' 0 4) } := by
  unfold data; rw [if_pos h]

theorem data_tone {c : Sn} (h : c.ltype = false) (hl : c.lch.val < 3) (d : BitVec 7) :
    c.data d = { c with freq := c.freq.set c.lch.val (d.extractLsb' 0 6 ++ c.freq[c.lch.val].extractLsb' 0 4) } := by
  unfold data; rw [if_neg (ne_true_of_eq_false h), dif_pos hl]

theorem data_noise {c : Sn} (h : c.ltype = false) (hl : ¬ c.lch.val < 3) (d : BitVec 7) :
    c.data d = c.writeNoise (d.extractLsb' 0 3) := by
  unfold data; rw [if_neg (ne_true_of_eq_false h), dif_neg hl]

end Sn

/-- Settles O18: the latched type, then the latched channel, select the register. -/
theorem dataByteWritesLatchedRegister : Obligations.DataByteWritesLatchedRegister := by
  unfold Obligations.DataByteWritesLatchedRegister
  intro port d s
  obtain ⟨hcnt, hout, hbuf, hcount, hff⟩ := s.sn.data_frame d
  refine ⟨snData d s, rfl, ?_⟩
  have hkept : SnGeneratorsKept s.sn (s.sn.data d) ∧ OnlySnWrite s (snData d s) :=
    ⟨⟨hcnt, hout, hff, hbuf, hcount⟩, onlySnWrite_charge s _⟩
  show (s.sn.data d).lch = s.sn.lch ∧ (s.sn.data d).ltype = s.sn.ltype ∧
    (∀ q : Fin 3, (s.sn.data d).freq[q] = _) ∧ (∀ q : Fin 4, (s.sn.data d).att[q] = _) ∧
    (s.sn.data d).noise = _ ∧ (s.sn.data d).lfsr = _ ∧ SnGeneratorsKept s.sn (s.sn.data d) ∧ OnlySnWrite s (snData d s)
  cases ht : s.sn.ltype with
  | true =>
    rw [Sn.data_att ht] at hkept ⊢
    refine ⟨rfl, ht, fun q => (if_neg (by simp)).symm, fun q => ?_, (if_neg (by simp)).symm, (if_neg (by simp)).symm, hkept⟩
    by_cases hq : q = s.sn.lch
    · rw [if_pos ⟨rfl, hq⟩, hq]; exact Vector.getElem_set_self _
    · rw [if_neg fun h => hq h.2]; exact Vector.getElem_set_ne s.sn.lch.isLt q.isLt fun hv => hq (Fin.ext hv.symm)
  | false =>
    by_cases hl : s.sn.lch.val < 3
    · have hnoise : s.sn.lch ≠ 3 := fun h => by rw [h] at hl; exact absurd hl (by decide)
      rw [Sn.data_tone ht hl] at hkept ⊢
      refine ⟨rfl, ht, fun q => ?_, fun q => (if_neg (by simp)).symm, (if_neg (by simp [hnoise])).symm,
        (if_neg (by simp [hnoise])).symm, hkept⟩
      by_cases hq : q.val = s.sn.lch.val
      · rw [if_pos ⟨rfl, hq⟩]
        obtain rfl : q = ⟨s.sn.lch.val, hl⟩ := Fin.ext hq
        exact Vector.getElem_set_self _
      · rw [if_neg fun h => hq h.2]; exact Vector.getElem_set_ne hl q.isLt (Ne.symm hq)
    · have hnoise : s.sn.lch = 3 := Fin.ext (by omega)
      rw [Sn.data_noise ht hl] at hkept ⊢
      refine ⟨rfl, ht, fun q => (if_neg fun h => ?_).symm, fun q => (if_neg (by simp)).symm, (if_pos ⟨rfl, hnoise⟩).symm,
        (if_pos ⟨rfl, hnoise⟩).symm, hkept⟩
      exact hl (h.2 ▸ q.isLt)

/-! ## The noise register -/

/-- The shift bit by bit (R126). -/
theorem lfsrShift_getLsbD (l : BitVec 15) (fb : Bool) (b : Nat) (hb : b < 15) :
    (lfsrShift l fb).getLsbD b =
      if b = 14 then (if fb then l.getLsbD 0 ^^ l.getLsbD 1 else l.getLsbD 0) else l.getLsbD (b + 1) := by
  have hbit : ∀ x : BitVec 15, ((x &&& 1) <<< 14).getLsbD b = (decide (b = 14) && x.getLsbD 0) := by
    intro x
    rw [BitVec.getLsbD_shiftLeft]
    by_cases h : b = 14
    · subst h; simp
    · have hlt : b < 14 := by omega
      simp [h, hlt]
  have hsel : (if fb then (l ^^^ (l >>> 1)) &&& 1 else l &&& 1) = (if fb then l ^^^ (l >>> 1) else l) &&& 1 := by
    cases fb <;> rfl
  rw [lfsrShift, hsel, BitVec.getLsbD_or, hbit, BitVec.getLsbD_ushiftRight, Nat.add_comm 1 b]
  by_cases h : b = 14
  · rw [h, BitVec.getLsbD_of_ge l (14 + 1) (by decide)]
    cases fb <;> simp
  · simp [h]

/-- Settles O20: the shift read at bits 0..13 and at bit 14. -/
theorem noiseShiftFeedsBackBit14 : Obligations.NoiseShiftFeedsBackBit14 := by
  unfold Obligations.NoiseShiftFeedsBackBit14
  intro l fb
  refine ⟨fun b hb => ?_, ?_⟩
  · rw [lfsrShift_getLsbD l fb b (by omega), if_neg (by omega)]
  · rw [lfsrShift_getLsbD l fb 14 (by decide), if_pos rfl]

/-- A periodic shift rotates the fifteen bits by one place (R126). -/
theorem lfsrShift_periodic_iterate (n : Nat) (l : BitVec 15) (b : Nat) (hb : b < 15) :
    ((fun l => lfsrShift l false)^[n] l).getLsbD b = l.getLsbD ((b + n) % 15) := by
  induction n generalizing b with
  | zero => rw [Function.iterate_zero_apply, Nat.add_zero, Nat.mod_eq_of_lt hb]
  | succ n ih =>
    rw [Function.iterate_succ_apply', lfsrShift_getLsbD _ _ b hb]
    by_cases h : b = 14
    · rw [if_pos h, if_neg (by decide), ih 0 (by decide)]
      congr 1; omega
    · rw [if_neg h, ih (b + 1) (by omega)]
      congr 1; omega

/-- Settles O21: fifteen rotations of fifteen bits are the identity. -/
theorem periodicNoiseHasPeriod15 : Obligations.PeriodicNoiseHasPeriod15 := by
  unfold Obligations.PeriodicNoiseHasPeriod15
  intro l
  apply BitVec.eq_of_getLsbD_eq
  intro b hb
  rw [lfsrShift_periodic_iterate 15 l b hb, Nat.add_mod_right, Nat.mod_eq_of_lt hb]

/-! ## The tick -/

namespace Sn

/-- A tick of tone channel `i` on zero: reload, toggle, and the volume or 0 (R127). -/
theorem tick_tone_reload (c : Sn) (i : Fin 3) (h : c.cnt[i.castSucc].toNat ≤ 1) :
    c.tick.cnt[i.castSucc] = c.freq[i] ∧ c.tick.freqff.getLsbD i.castSucc = !c.freqff.getLsbD i.castSucc ∧
    c.tick.out[i.castSucc] = if c.freqff.getLsbD i.castSucc then vtSn[c.att[i.castSucc].toNat] else 0 :=
  ⟨(c.tick_cnt_tone i i.isLt i.castSucc.isLt).trans (if_pos h), (c.tick_freqff i.castSucc i.castSucc.isLt).trans (if_pos h),
    (c.tick_out_tone i i.isLt i.castSucc.isLt).trans (if_pos h)⟩

/-- A tick of tone channel `i` above zero: the counter alone (R127). -/
theorem tick_tone_count (c : Sn) (i : Fin 3) (h : 1 < c.cnt[i.castSucc].toNat) :
    c.tick.cnt[i.castSucc].toNat = c.cnt[i.castSucc].toNat - 1 ∧
    c.tick.freqff.getLsbD i.castSucc = c.freqff.getLsbD i.castSucc ∧ c.tick.out[i.castSucc] = c.out[i.castSucc] := by
  have hne := Nat.not_le_of_lt h
  refine ⟨?_, (c.tick_freqff i.castSucc i.castSucc.isLt).trans (if_neg hne),
    (c.tick_out_tone i i.isLt i.castSucc.isLt).trans (if_neg hne)⟩
  have hcnt : c.tick.cnt[i.castSucc] = countDown c.cnt[i.castSucc] :=
    (c.tick_cnt_tone i i.isLt i.castSucc.isLt).trans (if_neg hne)
  rw [hcnt, countDown_toNat]

/-- A tick of the noise channel on zero: reload, toggle, and the LFSR's shift on the toggle to 1 (R127). -/
theorem tick_noise_reload (c : Sn) (h : c.cnt[3].toNat ≤ 1) :
    c.tick.cnt[3].toNat = (if c.noise.toNat % 4 = 3 then c.freq[2].toNat else 16 * 2 ^ (c.noise.toNat % 4)) ∧
    c.tick.freqff.getLsbD 3 = !c.freqff.getLsbD 3 ∧
    c.tick.lfsr = if c.freqff.getLsbD 3 then c.lfsr else lfsrShift c.lfsr (c.noise.getLsbD 2) := by
  refine ⟨?_, ?_, ?_⟩
  · rw [tick_cnt_noise, if_pos h, noiseReload_toNat]
  · rw [tick_freqff _ _ (by decide), if_pos h]
  · rw [tick_lfsr]
    cases hff : c.freqff.getLsbD 3 with
    | true => rw [if_neg (by simp), if_pos rfl]
    | false => rw [if_pos ⟨h, rfl⟩, if_neg (by decide)]; rfl

/-- A tick of the noise channel above zero: the counter alone (R127). -/
theorem tick_noise_count (c : Sn) (h : 1 < c.cnt[3].toNat) :
    c.tick.cnt[3].toNat = c.cnt[3].toNat - 1 ∧ c.tick.freqff.getLsbD 3 = c.freqff.getLsbD 3 ∧ c.tick.lfsr = c.lfsr := by
  have hne := Nat.not_le_of_lt h
  refine ⟨?_, ?_, ?_⟩
  · rw [tick_cnt_noise, if_neg hne, countDown_toNat]
  · rw [tick_freqff _ _ (by decide), if_neg hne]
  · rw [tick_lfsr, if_neg fun hc => hne hc.1]

end Sn

/-- Settles O19: the laws of a tick, channel by channel; the sample is the sum of the outputs the tick leaves. -/
theorem snTickRunsTheChannels : Obligations.SnTickRunsTheChannels := by
  unfold Obligations.SnTickRunsTheChannels
  refine ⟨rfl, fun s => ⟨fun hfull => snTick_full (by omega), fun hroom => ?_⟩⟩
  have hnext : exec .snTick s = .next (s.setSn s.sn.tick) := snTick_room hroom
  refine ⟨_, hnext, State.onlySn_setSn s _, rfl, ?_⟩
  rw [State.setSn_sn]
  refine ⟨Sn.tick_lch _, Sn.tick_ltype _, Sn.tick_att _, Sn.tick_freq _, Sn.tick_noise _, fun i j hij => ?_,
    Sn.tick_out_noise _, Sn.tick_noise_reload _, Sn.tick_noise_count _, Sn.tick_snbuf _, Sn.tick_psgsamps _⟩
  obtain rfl : i = j.castSucc := Fin.ext hij
  exact ⟨s.sn.tick_tone_reload j, s.sn.tick_tone_count j⟩

namespace Sn

/-- Ticks keep the tone periods. -/
theorem tick_iterate_freq (k : Nat) (c : Sn) : (Sn.tick^[k] c).freq = c.freq := by
  induction k with
  | zero => rfl
  | succ k ih => rw [Function.iterate_succ_apply', tick_freq, ih]

/-- Below its period a tone channel only counts down (R128). -/
theorem tick_iterate_count (c : Sn) (i : Fin 3) (k : Nat) (h : k < max c.cnt[i.castSucc].toNat 1) :
    (Sn.tick^[k] c).cnt[i.castSucc].toNat = c.cnt[i.castSucc].toNat - k ∧
    (Sn.tick^[k] c).freqff.getLsbD i.castSucc = c.freqff.getLsbD i.castSucc := by
  induction k with
  | zero => exact ⟨rfl, rfl⟩
  | succ k ih =>
    obtain ⟨hcnt, hff⟩ := ih (by omega)
    obtain ⟨hcnt', hff', -⟩ := (Sn.tick^[k] c).tick_tone_count i (by omega)
    rw [Function.iterate_succ_apply', hcnt', hff', hcnt, hff]
    exact ⟨by omega, rfl⟩

end Sn

/-- Settles O22: the channel counts down from its period to 1, or stands at 0, and the next tick is the first to reload. -/
theorem toneTogglesEveryPeriod : Obligations.ToneTogglesEveryPeriod := by
  unfold Obligations.ToneTogglesEveryPeriod
  intro c i j hij hcnt
  obtain rfl : i = j.castSucc := Fin.ext hij
  rw [← hcnt]
  refine ⟨fun k hk => (c.tick_iterate_count j k hk).2, ?_⟩
  obtain ⟨n, hn⟩ : ∃ n, max c.cnt[j.castSucc].toNat 1 = n + 1 := ⟨max c.cnt[j.castSucc].toNat 1 - 1, by omega⟩
  obtain ⟨hlast, hff⟩ := c.tick_iterate_count j n (by omega)
  obtain ⟨hcnt', hff', -⟩ := (Sn.tick^[n] c).tick_tone_reload j (by omega)
  rw [hn, Function.iterate_succ_apply', hcnt', hff', hff, Sn.tick_iterate_freq, hcnt]
  exact ⟨rfl, rfl⟩

/-- No entry of the volume table is above 0x1FFF (R125). -/
theorem vtSn_le (k : Fin 16) : vtSn[k].toNat ≤ 0x1FFF := by
  revert k; decide

theorem Sn.OutLegal.out_le {c : Sn} (h : c.OutLegal) (i : Fin 4) : c.out[i].toNat ≤ 0x1FFF := by
  obtain h0 | ⟨k, hk⟩ := h i
  · rw [h0]; decide
  · rw [hk]; exact vtSn_le k

/-- Four legal outputs fit in a sample: the sum does not wrap, and its sign bit is 0 (R129). -/
theorem Sn.OutLegal.mixed_toNat {c : Sn} (h : c.OutLegal) :
    c.mixed.toNat = c.out[0].toNat + c.out[1].toNat + c.out[2].toNat + c.out[3].toNat ∧ c.mixed.toNat ≤ 0x7FFC ∧
    0 ≤ c.mixed.toInt := by
  have h0 : c.out[0].toNat ≤ 0x1FFF := h.out_le 0
  have h1 : c.out[1].toNat ≤ 0x1FFF := h.out_le 1
  have h2 : c.out[2].toNat ≤ 0x1FFF := h.out_le 2
  have h3 : c.out[3].toNat ≤ 0x1FFF := h.out_le 3
  have hsum : c.mixed.toNat = c.out[0].toNat + c.out[1].toNat + c.out[2].toNat + c.out[3].toNat := by
    rw [Sn.mixed, BitVec.toNat_ofNat, Nat.mod_eq_of_lt (by omega)]
  refine ⟨hsum, by omega, ?_⟩
  rw [BitVec.toInt_eq_toNat_of_lt (by omega)]
  exact Int.natCast_nonneg _

/-- Settles O23: a tick keeps the outputs legal, and its sample is theirs. -/
theorem snSampleNeverSaturates : Obligations.SnSampleNeverSaturates := by
  unfold Obligations.SnSampleNeverSaturates
  exact fun c h => ⟨h.tick, c.tick_snbuf, h.tick.mixed_toNat⟩

end Sys2Proof.Machine
end

section
/-! The AY-3-8910: its register writes, its envelope and its tick (spec/41_ay8910.md). -/

namespace Sys2Proof.Machine

/-! ## Register writes -/

/-- Settles O25: `ayWr_eq` is the store, followed for the shape by the envelope's restart, which keeps the registers. -/
theorem ayWriteStoresMasked : Obligations.AyWriteStoresMasked := by
  unfold Obligations.AyWriteStoresMasked
  refine ⟨rfl, fun v s r hr => ⟨ayWr v s, rfl, ?_⟩⟩
  obtain rfl : r = s.ay.ayidx.toFin := Fin.ext hr
  rw [ayWr_eq]
  split
  case isTrue h13 =>
    have hr : s.ay.ayidx.toFin = 13 := congrArg BitVec.toFin h13
    rw [hr]
    exact ⟨s.ay.storeReg_same 13 v, fun q hq => s.ay.storeReg_other v hq, fun hne => absurd rfl hne, State.onlyAy_setAy s _⟩
  case isFalse =>
    exact ⟨s.ay.storeReg_same _ v, fun q hq => s.ay.storeReg_other v hq, fun _ => rfl, State.onlyAy_setAy s _⟩

/-- Settles O26: AY.WR and the refinement of its row test the selected register alike. -/
theorem ayWriteIsItsRefinedRow : Obligations.AyWriteIsItsRefinedRow := by
  unfold Obligations.AyWriteIsItsRefinedRow
  intro v s
  refine ⟨ayWr v s, rfl, ?_⟩
  unfold ayWr refineAyWr
  dsimp only
  split_ifs <;> rfl

/-- A store into one register is all of the AY that a plain row changes (R152 to R156, R158). -/
theorem onlyAyRegister_storeReg (a : Ay) (r : Fin 16) (x : Byte) : OnlyAyRegister a (a.storeReg r x) r :=
  ⟨fun _ hq => a.storeReg_other x hq, rfl⟩

/-- Settles O27: each plain row is a store into its register. -/
theorem ayPlainRowsOnlyStore : Obligations.AyPlainRowsOnlyStore := by
  unfold Obligations.AyPlainRowsOnlyStore
  intro v s i r h
  suffices hexec : exec i s = .next (s.setAy (s.ay.storeReg r v)) from
    ⟨_, hexec, s.ay.storeReg_same r v, onlyAyRegister_storeReg s.ay r v, State.onlyAy_setAy s _⟩
  obtain ⟨k, rfl, hr⟩ | ⟨rfl, rfl⟩ | ⟨rfl, rfl⟩ | ⟨k, rfl, hr⟩ | ⟨k, rfl, hr⟩ | ⟨k, rfl, hr⟩ := h
  · obtain ⟨_, _⟩ := r; obtain rfl : _ = k.val := hr; rfl
  · rfl
  · rfl
  · obtain ⟨_, _⟩ := r; obtain rfl : _ = 8 + k.val := hr; rfl
  · obtain ⟨_, _⟩ := r; obtain rfl : _ = 11 + k.val := hr; rfl
  · obtain ⟨_, _⟩ := r; obtain rfl : _ = 14 + k.val := hr; rfl

/-- Settles O29: the read is one event. -/
theorem ayReadHasNoSideEffect : Obligations.AyReadHasNoSideEffect := by
  unfold Obligations.AyReadHasNoSideEffect
  intro s r hr
  obtain rfl : r = s.ay.ayidx.toFin := Fin.ext hr
  rfl

/-! ## The tick -/

/-- A period's double, as the tick shifts it. -/
theorem shiftLeft_one_le_iff (n m : Nat) : n <<< 1 ≤ m ↔ 2 * n ≤ m := by
  rw [Nat.shiftLeft_eq, Nat.pow_one, Nat.mul_comm]

/-- Settles O30: the laws of a tick, generator by generator; the mix reads the generators the tick leaves. -/
theorem ayTickRunsTheGenerators : Obligations.AyTickRunsTheGenerators := by
  unfold Obligations.AyTickRunsTheGenerators
  intro s tperiod nperiod eperiod htone hnoise henv
  refine ⟨fun hfull => ayTick_full (by omega), fun hroom => ?_⟩
  have hnext : exec .ayTick s = .next (s.setAy s.ay.tick) := ayTick_room hroom
  refine ⟨_, hnext, State.onlyAy_setAy s _, rfl, ?_⟩
  rw [State.setAy_ay]
  obtain ⟨hecnt, hevol, hestep, heseg⟩ := s.ay.tick_envelope
  have hnperiod : s.ay.nperiod = nperiod := hnoise.symm
  have heperiod : s.ay.eperiod = eperiod := s.ay.eperiod_eq.trans henv.symm
  simp only [heperiod, shiftLeft_one_le_iff] at hecnt hevol hestep heseg
  have hncnt := s.ay.tick_ncnt
  have hnshift := s.ay.tick_nshift
  simp only [hnperiod, shiftLeft_one_le_iff] at hncnt hnshift
  refine ⟨s.ay.tick_reg, s.ay.tick_ayidx, fun i => ?_, fun h => ?_, fun h => ?_, fun h => ?_, fun h => ?_, s.ay.tick_aybuf,
    s.ay.tick_sgmpsgsamps⟩
  · have hperiod : s.ay.tperiod i = tperiod i := (s.ay.tperiod_eq i).trans (htone i).symm
    rw [s.ay.tick_tcnt i, s.ay.tick_sign i, hperiod]
    exact ⟨fun h => ⟨if_pos h, if_pos h⟩, fun h => ⟨if_neg (by omega), if_neg (by omega)⟩⟩
  · rw [hncnt, hnshift, if_pos h, if_pos h]; exact ⟨rfl, rfl⟩
  · have hlt := Nat.not_le_of_lt h
    rw [hncnt, hnshift, if_neg hlt, if_neg hlt]; exact ⟨rfl, rfl⟩
  · rw [hecnt, hevol, hestep, heseg, if_pos h, if_pos h, if_pos h, if_pos h]; exact ⟨rfl, rfl, rfl, rfl⟩
  · have hlt := Nat.not_le_of_lt h
    rw [hecnt, hevol, hestep, heseg, if_neg hlt, if_neg hlt, if_neg hlt, if_neg hlt]; exact ⟨rfl, rfl, rfl, rfl⟩

/-! ## The envelope -/

/-- The segment `k` steps after a write of shape `S`: shapes 8, 10, 12 and 14 alternate, the others stay in segment 1 (R162). -/
def envelopeSegment (S k : Nat) : Bool :=
  if S % 2 = 0 ∧ 8 ≤ S then decide (k / 16 % 2 = 1) else decide (16 ≤ k)

/-- The envelope elements are those of `k` steps after a write of shape `S`. -/
def Ay.EnvelopeAt (a : Ay) (S k : Nat) : Prop :=
  a.shape.toNat = S ∧ a.eseg = envelopeSegment S k ∧ a.estep.val = k % 16 ∧ a.evol.toNat = envelopeTable S k

/-- The envelope repeats every 32 steps from the 16th on: `k`'s place among the first 48 steps. -/
def envelopePhase (k : Nat) : Nat := if k < 48 then k else 16 + (k - 16) % 32

theorem envelopePhase_spec (k : Nat) : envelopePhase k % 16 = k % 16 ∧ envelopePhase k / 16 % 2 = k / 16 % 2 ∧
    (envelopePhase k < 16 ↔ k < 16) ∧ envelopePhase k < 48 := by
  unfold envelopePhase
  split <;> omega

theorem envelopePhase_succ (k : Nat) : envelopePhase (envelopePhase k + 1) = envelopePhase (k + 1) := by
  unfold envelopePhase
  by_cases h : k < 48
  · rw [if_pos h]
  · rw [if_neg h, if_neg (by omega : ¬ k + 1 < 48)]
    split <;> omega

theorem envelopeSegment_phase (S k : Nat) : envelopeSegment S (envelopePhase k) = envelopeSegment S k := by
  obtain ⟨-, hdiv, hlt, -⟩ := envelopePhase_spec k
  have hge : 16 ≤ envelopePhase k ↔ 16 ≤ k := by omega
  simp only [envelopeSegment, hdiv, hge]

theorem envelopeTable_phase (S k : Nat) : envelopeTable S (envelopePhase k) = envelopeTable S k := by
  obtain ⟨hmod, hdiv, hlt, -⟩ := envelopePhase_spec k
  simp only [envelopeTable, hmod, hdiv, hlt]

namespace Ay

theorem EnvelopeAt.phase_iff {a : Ay} {S k : Nat} : a.EnvelopeAt S (envelopePhase k) ↔ a.EnvelopeAt S k := by
  unfold EnvelopeAt
  rw [envelopeSegment_phase, envelopeTable_phase, (envelopePhase_spec k).1]

/-- An envelope step reads the shape and its own three elements, and keeps the shape (R162). -/
theorem envStep_congr_shape {a b : Ay} (hshape : a.shape = b.shape) (hseg : a.eseg = b.eseg) (hstep : a.estep = b.estep)
    (hvol : a.evol = b.evol) :
    a.envStep.shape = b.envStep.shape ∧ a.envStep.eseg = b.envStep.eseg ∧ a.envStep.estep = b.envStep.estep ∧
    a.envStep.evol = b.envStep.evol := by
  have hreg : loNibble a.reg[13] = loNibble b.reg[13] := hshape
  simp only [envStep, envMove, nextSegment, envReset, shape, attack, hreg, hseg, hstep, hvol]
  split <;> exact ⟨hreg, rfl, rfl, rfl⟩

/-- An AY whose envelope is that of `k` steps after a write of shape `S`. -/
def envelopeWitness (S : Fin 16) (k : Fin 48) : Ay :=
  { State.reset.ay with
    reg := State.reset.ay.reg.set 13 (BitVec.ofNat 8 S)
    eseg := envelopeSegment S k
    estep := ⟨k % 16, Nat.mod_lt _ (by decide)⟩
    evol := BitVec.ofNat 4 (envelopeTable S k) }

/-- One step from each of the 48 phases of each shape: R165's table, checked entry by entry. -/
theorem envelopeWitness_step : ∀ (S : Fin 16) (k : Fin 48),
    (envelopeWitness S k).EnvelopeAt S k ∧ (envelopeWitness S k).envStep.EnvelopeAt S (k + 1) := by
  unfold EnvelopeAt
  decide +kernel

theorem EnvelopeAt.envStep {a : Ay} {S k : Nat} (h : a.EnvelopeAt S k) : a.envStep.EnvelopeAt S (k + 1) := by
  obtain ⟨hshape, hseg, hstep, hvol⟩ := EnvelopeAt.phase_iff.2 h
  have hS : S < 16 := hshape ▸ a.shape.isLt
  obtain ⟨⟨wshape, wseg, wstep, wvol⟩, hnext⟩ := envelopeWitness_step ⟨S, hS⟩ ⟨envelopePhase k, (envelopePhase_spec k).2.2.2⟩
  obtain ⟨eshape, eseg, estep, evol⟩ := envStep_congr_shape (BitVec.eq_of_toNat_eq (hshape.trans wshape.symm))
    (hseg.trans wseg.symm) (Fin.ext (hstep.trans wstep.symm)) (BitVec.eq_of_toNat_eq (hvol.trans wvol.symm))
  rw [← EnvelopeAt.phase_iff, ← envelopePhase_succ, EnvelopeAt.phase_iff]
  unfold EnvelopeAt
  rw [eshape, eseg, estep, evol]
  exact hnext

/-- Right after a write of a shape the envelope is at step 0 (R157, R160). -/
theorem envelopeAt_write (a : Ay) (v : Byte) : (a.storeReg 13 v).restartEnvelope.EnvelopeAt (v.toNat % 16) 0 := by
  have hattack : ∀ v : Byte, (v.toNat % 16 / 4 % 2 = 1 ↔ v.getLsbD 2 = true) := by decide +kernel
  rw [restartEnvelope_eq, storeReg_shape_attack]
  refine ⟨(loNibble_toNat _).trans (by rw [storeReg_shape_toNat, Nat.mod_mod]), ?_, rfl, ?_⟩
  · simp [envelopeSegment]
  · simp only [envelopeTable, hattack]
    cases v.getLsbD 2 <;> rfl

end Ay

/-- Settles O32: the envelope is at step 0 after the write, and each step moves it to the next of its 48 phases. -/
theorem envelopeFollowsItsTable : Obligations.EnvelopeFollowsItsTable := by
  unfold Obligations.EnvelopeFollowsItsTable
  intro v s t k h
  obtain rfl : ayWrShape v s = t := by injection h
  suffices hk : (Ay.envStep^[k] (ayWrShape v s).ay).EnvelopeAt (v.toNat % 16) k from hk.2.2.2
  induction k with
  | zero => exact s.ay.envelopeAt_write v
  | succ k ih => rw [Function.iterate_succ_apply']; exact ih.envStep

end Sys2Proof.Machine
end

section
/-! The line step: where it goes, and the pixels of its row (spec/43_vdp_render.md R220 to R232). -/

namespace Sys2Proof.Machine

/-! ## The frame buffer after a line step -/

theorem pixel_eq (v : Vdp) {r c : Nat} (hr : r < 208) (hc : c < 272) : v.pixel r c = v.fb[r][c] := dif_pos ⟨hr, hc⟩

theorem pixel_congr {v w : Vdp} (h : v.fb = w.fb) (r c : Nat) : v.pixel r c = w.pixel r c := by
  unfold Vdp.pixel; rw [h]

theorem pixel_of_row {v : Vdp} {row : Row} {r c : Nat} (hr : r < 208) (hrow : v.fb[r] = row) (hc : c < 272) :
    v.pixel r c = row[c] := by
  rw [pixel_eq v hr hc, hrow]

/-- Painting a row changes the pixels of that row only. -/
theorem paintRow_pixel_other (v : Vdp) (row : Row) {r : Nat} (h : r ≠ v.line + 8) (c : Nat) :
    (v.paintRow row).pixel r c = v.pixel r c := by
  unfold Vdp.pixel
  split
  case isTrue hrc => simp only [paintRow_fb v row r hrc.1, if_neg h]
  case isFalse => rfl

/-- Before the last line of a frame, a line step leaves the frame buffer as the painting does (R221). -/
theorem vdpLine_fb {s : State} (h : s.vdp.line + 1 ≠ s.numScanlines) : (vdpLine s).vdp.fb = (renderLine s).vdp.fb := by
  rw [vdpLine, advanceLine_eq, State.setEnv_vdp, State.setVdp_vdp, renderLine_line, State.numScanlines, renderLine_cfg]
  exact if_neg h

theorem visible_ne_last {s : State} (h : s.vdp.line < 192) : s.vdp.line + 1 ≠ s.numScanlines := by
  have := visible_lt_numScanlines s
  omega

/-- A visible line's row after the line step is the painted one, blanked or enabled (R221, R224). -/
theorem vdpLine_row_blank {s : State} (h : s.vdp.line < 192) (hbl : s.vdp.bl = false) :
    (vdpLine s).vdp.fb[s.vdp.line + 8] = s.vdp.backdropRow := by
  simp only [vdpLine_fb (visible_ne_last h), renderLine_blank s h hbl, State.setVdp_vdp]
  rw [paintRow_fb _ _ _ (by omega), if_pos rfl]

theorem vdpLine_row_enabled {s : State} (h : s.vdp.line < 192) (hbl : s.vdp.bl = true) :
    (vdpLine s).vdp.fb[s.vdp.line + 8] = if s.vdp.mode = .text then s.vdp.bgRow s.cfg s.env.undocDraws
      else (SpriteBuf.pass s.vdp).composite (s.vdp.bgRow s.cfg s.env.undocDraws) := by
  obtain ⟨hfb, -, -⟩ := renderLine_row s h hbl
  simp only [vdpLine_fb (visible_ne_last h), hfb]
  rw [paintRow_fb _ _ _ (by omega), if_pos rfl]

/-- The painting part changes the pixels of its own line's row only, and on a visible line only (R221, decision D18). -/
theorem renderLine_pixel_other (s : State) {r : Nat} (h : s.vdp.line < 192 → r ≠ s.vdp.line + 8) (c : Nat) :
    (renderLine s).vdp.pixel r c = s.vdp.pixel r c := by
  by_cases hline : s.vdp.line < 192
  · cases hbl : s.vdp.bl with
    | true =>
      obtain ⟨hfb, -, -⟩ := renderLine_row s hline hbl
      rw [pixel_congr hfb, paintRow_pixel_other _ _ (h hline)]
    | false => rw [renderLine_blank s hline hbl, State.setVdp_vdp, paintRow_pixel_other _ _ (h hline)]
  · rw [renderLine_hidden s (by omega)]

/-- Reaching line 192 sets INT; the other bits are the painting's (R222). -/
theorem vdpLine_status_low (s : State) : (vdpLine s).vdp.status &&& 0x7F = (renderLine s).vdp.status &&& 0x7F := by
  rw [vdpLine, advanceLine_eq, State.setEnv_vdp, State.setVdp_vdp]
  split
  · exact Status.setInt_low _
  · rfl

/-- A line step gives an NMI at most and counts a free draw at most; it reads no input. -/
theorem vdpLine_env (s : State) :
    (vdpLine s).env = { s.env with events := (vdpLine s).env.events, undocDraws := (vdpLine s).env.undocDraws } := by
  rw [vdpLine, advanceLine_eq, renderLine_frame]; rfl

theorem vdpLine_undocDraws (s : State) : (vdpLine s).env.undocDraws = (renderLine s).env.undocDraws := by
  rw [vdpLine, advanceLine_eq]; rfl

/-- Settles O36: one update describes the advance, and the painting touches its own row. -/
theorem lineStepAdvances : Obligations.LineStepAdvances := by
  unfold Obligations.LineStepAdvances
  intro s
  refine ⟨?_, vdpLine s, rfl, vdpLine_line s, vdpLine_vram s, vdpLine_reg s, ?_, ?_, ?_, vdpLine_sn s, vdpLine_ay s,
    vdpLine_sched s, vdpLine_cfg s, vdpLine_env s, fun r c hlast hrow => ?_⟩
  · unfold State.numScanlines; cases s.cfg.region <;> rfl
  · rw [vdpLine, advanceLine_eq]; exact renderLine_vaddr s
  · rw [vdpLine, advanceLine_eq]; exact renderLine_dlatch s
  · rw [vdpLine, advanceLine_eq]; exact renderLine_wlatch s
  · rw [pixel_congr (vdpLine_fb hlast), renderLine_pixel_other s hrow]

/-- Settles O38: the last line is past the visible ones, so the wrap alone paints. -/
theorem wrapPaintsTheBands : Obligations.WrapPaintsTheBands := by
  unfold Obligations.WrapPaintsTheBands
  intro s hlast
  have hvisible := visible_lt_numScanlines s
  refine ⟨vdpLine s, rfl, by rw [vdpLine_line, if_pos hlast], fun r c hr hc => ?_⟩
  have hfb : (vdpLine s).vdp.fb =
      Vector.ofFn fun r => if r.val < 8 ∨ 200 ≤ r.val then s.vdp.backdropRow else s.vdp.fb[r] := by
    rw [vdpLine, renderLine_hidden s (by omega), advanceLine_eq, State.setEnv_vdp, State.setVdp_vdp]
    exact if_pos hlast
  have hrow : (vdpLine s).vdp.fb[r] = if r < 8 ∨ 200 ≤ r then s.vdp.backdropRow else s.vdp.fb[r] := by
    simp only [hfb, Vector.getElem_ofFn]; rfl
  rw [pixel_of_row hr hrow hc, pixel_eq s.vdp hr hc]
  split
  · exact Vector.getElem_replicate _
  · rfl

/-- Settles O39: the row is the backdrop's, and no sprite pass runs. -/
theorem blankLineIsBackdrop : Obligations.BlankLineIsBackdrop := by
  unfold Obligations.BlankLineIsBackdrop
  intro s hline hbl
  refine ⟨vdpLine s, rfl, fun c hc => ?_, ?_⟩
  · rw [pixel_of_row (by omega) (vdpLine_row_blank hline hbl) hc]
    exact Vector.getElem_replicate _
  · rw [vdpLine_status_low, renderLine_blank s hline hbl]; rfl

/-! ## The addresses as sums -/

section Addresses

variable (v : Vdp)

theorem tblPname_eq : v.tblPname = v.reg[2].toNat * 1024 := Nat.shiftLeft_eq _ 10
theorem tblCol_eq : v.tblCol = v.reg[3].toNat * 64 := Nat.shiftLeft_eq _ 6
theorem tblPgen_eq : v.tblPgen = v.reg[4].toNat * 2048 := Nat.shiftLeft_eq _ 11
theorem tblSpgen_eq : v.tblSpgen = v.reg[6].toNat * 2048 := Nat.shiftLeft_eq _ 11
theorem srow_eq : v.srow = v.line / 8 := Nat.shiftRight_eq_div_pow _ 3
theorem prow_eq : v.prow = v.line % 8 := Nat.and_two_pow_sub_one_eq_mod _ 3

theorem nameAddr32_eq (i : Nat) : v.nameAddr32 i = v.reg[2].toNat * 1024 + v.line / 8 * 32 + i := by
  rw [Vdp.nameAddr32, tblPname_eq, srow_eq]

theorem nameAddr40_eq (i : Nat) : v.nameAddr40 i = v.reg[2].toNat * 1024 + v.line / 8 * 40 + i := by
  rw [Vdp.nameAddr40, tblPname_eq, srow_eq]

theorem g1PatAddr_eq (name : Byte) : v.g1PatAddr name = v.reg[4].toNat * 2048 + name.toNat * 8 + v.line % 8 := by
  rw [Vdp.g1PatAddr, tblPgen_eq, prow_eq]

theorem g1ColAddr_eq (name : Byte) : v.g1ColAddr name = v.reg[3].toNat * 64 + name.toNat / 8 := by
  rw [Vdp.g1ColAddr, tblCol_eq, Nat.shiftRight_eq_div_pow]

theorem mcByteAddr_eq (name : Byte) : v.mcByteAddr name =
    v.reg[4].toNat * 2048 + name.toNat * 8 + v.line / 8 % 4 * 2 + v.line / 4 % 2 := by
  rw [Vdp.mcByteAddr, tblPgen_eq, srow_eq, Nat.and_two_pow_sub_one_eq_mod _ 2, Nat.shiftRight_eq_div_pow,
    Nat.and_two_pow_sub_one_eq_mod _ 1]

/-- The third of the screen and the name (R228). -/
theorem g2Index_eq (h : v.line < 192) (name : Byte) : v.g2Index name = v.line / 64 * 256 + name.toNat := by
  have hthird : ∀ r : Fin 24, (r.val &&& 0x18) <<< 5 = 2 ^ 8 * (r.val / 8) := by decide
  have hsrow : (v.srow &&& 0x18) <<< 5 = 2 ^ 8 * (v.srow / 8) := hthird ⟨v.srow, by rw [srow_eq]; omega⟩
  rw [Vdp.g2Index, hsrow, ← Nat.two_pow_add_eq_or_of_lt name.isLt, srow_eq]
  omega

theorem g2Pmask_eq : v.g2Pmask = v.reg[4].toNat % 4 * 256 + 255 := by
  have h : ∀ b : Byte, ((b.toNat &&& 3) <<< 8) ||| 0xFF = b.toNat % 4 * 256 + 255 := by decide +kernel
  exact h v.reg[4]

theorem g2Cmask_eq : v.g2Cmask = v.reg[3].toNat % 128 * 8 + 7 := by
  have h : ∀ b : Byte, ((b.toNat &&& 0x7F) <<< 3) ||| 7 = b.toNat % 128 * 8 + 7 := by decide +kernel
  exact h v.reg[3]

theorem g2OffsetPgen_eq : v.g2OffsetPgen = if v.reg[4].getLsbD 2 then 0x2000 else 0 := by
  have h : ∀ b : Byte, (b.toNat &&& 4) <<< 11 = if b.getLsbD 2 then 0x2000 else 0 := by decide +kernel
  exact h v.reg[4]

theorem g2OffsetCol_eq : v.g2OffsetCol = if v.reg[3].getLsbD 7 then 0x2000 else 0 := by
  have h : ∀ b : Byte, b.toNat <<< 6 &&& 0x2000 = if b.getLsbD 7 then 0x2000 else 0 := by decide +kernel
  exact h v.reg[3]

theorem g2PatAddr_eq (h : v.line < 192) (name : Byte) : v.g2PatAddr name = (if v.reg[4].getLsbD 2 then 0x2000 else 0) +
    ((v.line / 64 * 256 + name.toNat) &&& (v.reg[4].toNat % 4 * 256 + 255)) * 8 + v.line % 8 := by
  rw [Vdp.g2PatAddr, g2OffsetPgen_eq, g2Index_eq v h, g2Pmask_eq, prow_eq]

theorem g2ColAddr_eq (h : v.line < 192) (name : Byte) : v.g2ColAddr name = (if v.reg[3].getLsbD 7 then 0x2000 else 0) +
    ((v.line / 64 * 256 + name.toNat) &&& (v.reg[3].toNat % 128 * 8 + 7)) * 8 + v.line % 8 := by
  rw [Vdp.g2ColAddr, g2OffsetCol_eq, g2Index_eq v h, g2Cmask_eq, prow_eq]

end Addresses

/-! ## The lines of each mode -/

/-- The mode of a mode number (R220). -/
theorem mode_graphics1 {v : Vdp} (h : v.modeNumber = 0) : v.mode = .graphics1 := by rw [Vdp.mode, h]; rfl
theorem mode_text {v : Vdp} (h : v.modeNumber = 1) : v.mode = .text := by rw [Vdp.mode, h]; rfl
theorem mode_graphics2 {v : Vdp} (h : v.modeNumber = 2) : v.mode = .graphics2 := by rw [Vdp.mode, h]; rfl
theorem mode_multicolor {v : Vdp} (h : v.modeNumber = 4) : v.mode = .multicolor := by rw [Vdp.mode, h]; rfl
theorem mode_undocumented {v : Vdp} (h : v.modeNumber = 3 ∨ v.modeNumber = 5 ∨ v.modeNumber = 6 ∨ v.modeNumber = 7) :
    v.mode = .undocumented := by
  obtain h | h | h | h := h <;> rw [Vdp.mode, h] <;> rfl

/-- An enabled line outside Text: backdrop in the overscan, and sprites over the background in the playfield (R226, R268). -/
theorem vdpLine_playfield {s : State} (hline : s.vdp.line < 192) (hbl : s.vdp.bl = true) (hmode : s.vdp.mode ≠ .text)
    {pixel : Fin 256 → Colour} (hbg : s.vdp.bgRow s.cfg s.env.undocDraws = s.vdp.overscanRow pixel) :
    (∀ c, c < 8 ∨ (264 ≤ c ∧ c < 272) → (vdpLine s).vdp.pixel (s.vdp.line + 8) c = s.vdp.reg[7].extractLsb' 0 4) ∧
    ∀ x : Fin 256, (vdpLine s).vdp.pixel (s.vdp.line + 8) (x.val + 8) =
      overBackground (SpriteBuf.pass s.vdp).linebuf[x] (pixel x) := by
  have hrow := vdpLine_row_enabled hline hbl
  rw [if_neg hmode, hbg] at hrow
  constructor
  · intro c hc
    have hc272 : c < 272 := by omega
    have hborder : ¬ (8 ≤ c ∧ c < 264) := by omega
    rw [pixel_of_row (by omega) hrow hc272, composite_getElem _ _ _ hc272, dif_neg hborder, overscanRow_getElem _ _ _ hc272,
      dif_neg hborder]
    rfl
  · intro x
    have hc272 : x.val + 8 < 272 := by omega
    have hinside : 8 ≤ x.val + 8 ∧ x.val + 8 < 264 := by omega
    rw [pixel_of_row (by omega) hrow hc272, composite_getElem _ _ _ hc272, dif_pos hinside, overscanRow_getElem _ _ _ hc272,
      dif_pos hinside]
    simp only [Nat.add_sub_cancel]
    rfl

/-- Settles O41: the three fetches of a tile, at the addresses as sums. -/
theorem graphics1Line : Obligations.Graphics1Line := by
  unfold Obligations.Graphics1Line
  intro s hline hbl hnumber
  have hmode := mode_graphics1 hnumber
  obtain ⟨hborder, hpixel⟩ := vdpLine_playfield (pixel := fun x => s.vdp.g1Pixel x) hline hbl (by rw [hmode]; decide)
    (by rw [Vdp.bgRow, hmode])
  refine ⟨vdpLine s, rfl, hborder, fun x name pat colour hname hpat hcolour => ?_⟩
  rw [← nameAddr32_eq] at hname
  rw [← g1PatAddr_eq] at hpat
  rw [← g1ColAddr_eq] at hcolour
  subst hname hpat hcolour
  exact hpixel x

/-- Settles O42: the three fetches of a tile, the index masked for the pattern and for the colour. -/
theorem graphics2Line : Obligations.Graphics2Line := by
  unfold Obligations.Graphics2Line
  intro s hline hbl hnumber
  have hmode := mode_graphics2 hnumber
  obtain ⟨hborder, hpixel⟩ := vdpLine_playfield (pixel := fun x => s.vdp.g2Pixel x) hline hbl (by rw [hmode]; decide)
    (by rw [Vdp.bgRow, hmode])
  refine ⟨vdpLine s, rfl, hborder, fun x name pat colour idx hname hidx hpat hcolour => ?_⟩
  subst hidx
  rw [← nameAddr32_eq] at hname
  rw [← g2PatAddr_eq _ hline] at hpat
  rw [← g2ColAddr_eq _ hline] at hcolour
  subst hname hpat hcolour
  exact hpixel x

/-- Settles O43: the two fetches of a colour pair. -/
theorem multicolorLine : Obligations.MulticolorLine := by
  unfold Obligations.MulticolorLine
  intro s hline hbl hnumber
  have hmode := mode_multicolor hnumber
  obtain ⟨hborder, hpixel⟩ := vdpLine_playfield (pixel := fun x => s.vdp.mcPixel x) hline hbl (by rw [hmode]; decide)
    (by rw [Vdp.bgRow, hmode])
  refine ⟨vdpLine s, rfl, hborder, fun x name cb hname hcb => ?_⟩
  rw [← nameAddr32_eq] at hname
  rw [← mcByteAddr_eq] at hcb
  subst hname hcb
  exact hpixel x

/-- Settles O44: cell `i`'s pixel `b` is text column `6i + b`. -/
theorem textLine : Obligations.TextLine := by
  unfold Obligations.TextLine
  intro s hline hbl hnumber
  have hmode := mode_text hnumber
  have horigin := s.cfg.textOriginX.isLt
  have hrow := vdpLine_row_enabled hline hbl
  rw [if_pos hmode, Vdp.bgRow, hmode] at hrow
  refine ⟨vdpLine s, rfl, fun c hc hout => ?_, fun i b name pat hi hb hname hpat => ?_, ?_⟩
  · rw [pixel_of_row (by omega) hrow hc, textRow_getElem _ _ _ hc, if_neg (by omega)]
    rfl
  · have hc : s.cfg.textOriginX.val + i * 6 + b < 272 := by omega
    have hcell : s.cfg.textOriginX.val + i * 6 + b - s.cfg.textOriginX.val = i * 6 + b := by omega
    have hdiv : (i * 6 + b) / 6 = i := by omega
    have hmod : (i * 6 + b) % 6 = b := by omega
    rw [← nameAddr40_eq] at hname
    rw [← g1PatAddr_eq] at hpat
    subst hname hpat
    rw [pixel_of_row (by omega) hrow hc, textRow_getElem _ _ _ hc, if_pos (by omega), hcell, Vdp.textPixel, hdiv, hmod]
    rfl
  · obtain ⟨-, hstatus, -⟩ := renderLine_row s hline hbl
    rw [vdpLine_status_low, hstatus, if_pos hmode]

/-- Settles O45: the background is the opaque draw of the line's count. -/
theorem undocumentedModeLine : Obligations.UndocumentedModeLine := by
  unfold Obligations.UndocumentedModeLine
  intro s hline hbl hnumber
  have hmode := mode_undocumented hnumber
  obtain ⟨hborder, hpixel⟩ := vdpLine_playfield (pixel := Config.undocModeBg s.env.undocDraws) hline hbl
    (by rw [hmode]; decide) (by rw [Vdp.bgRow, hmode])
  refine ⟨vdpLine s, rfl, ?_, hborder, hpixel⟩
  obtain ⟨-, -, hdraws⟩ := renderLine_row s hline hbl
  rw [vdpLine_undocDraws, hdraws, Vdp.isUndocumented, hmode]
  rfl

/-- Settles O40: three disjoint bits. -/
theorem modeNumberIsThreeBits : Obligations.ModeNumberIsThreeBits := by
  unfold Obligations.ModeNumberIsThreeBits
  intro v
  have h1 : ∀ b : Byte, (b >>> 4) &&& 1#8 = (BitVec.ofBool (b.getLsbD 4)).setWidth 8 := by decide +kernel
  have h2 : ∀ b : Byte, b &&& 2#8 = (BitVec.ofBool (b.getLsbD 1)).setWidth 8 <<< 1 := by decide +kernel
  have h4 : ∀ b : Byte, ((b >>> 3) &&& 1#8) <<< 2 = (BitVec.ofBool (b.getLsbD 3)).setWidth 8 <<< 2 := by decide +kernel
  show ((v.reg[1] >>> 4) &&& 1#8 ||| v.reg[0] &&& 2#8 ||| ((v.reg[1] >>> 3) &&& 1#8) <<< 2).toNat = _
  rw [h1, h2, h4]
  generalize v.reg[1].getLsbD 4 = b4
  generalize v.reg[0].getLsbD 1 = b1
  generalize v.reg[1].getLsbD 3 = b3
  revert b4 b1 b3
  decide

/-! ## The addresses lie in VRAM -/

/-- A masked register is at most its mask. -/
theorem Vdp.RegsMasked.le_mask {v : Vdp} (h : v.RegsMasked) (r : Fin 8) : v.reg[r].toNat ≤ vdpMask[r].toNat := by
  rw [← h r, BitVec.toNat_and]; exact Nat.and_le_right

/-- The pattern byte of a sprite whose row and column lie in its pattern (44_vdp_sprites.md R266). -/
theorem spritePatAddr_lt {v : Vdp} (h6 : v.reg[6].toNat ≤ 7) (e : SpriteEntry) {srow sc : Nat} (hrow : srow < v.spriteSize)
    (hcol : sc < v.spriteSize) : v.spritePatAddr e srow sc < 0x4000 := by
  have hmask : ∀ b : Byte, (b &&& 0xFC).toNat ≤ 252 := by decide +kernel
  have hname := e.name.isLt
  have hlarge := hmask e.name
  unfold Vdp.spritePatAddr Vdp.spriteName
  rw [tblSpgen_eq]
  dsimp only
  have hsize : v.spriteSize = 16 ∨ v.spriteSize = 8 := by unfold Vdp.spriteSize; split <;> simp
  obtain hsize | hsize := hsize
  · rw [if_pos hsize]
    have haddr : v.reg[6].toNat * 2048 + (e.name &&& 0xFC).toNat * 8 + srow < 2 ^ 14 := by omega
    split
    · exact Nat.or_lt_two_pow haddr (by decide)
    · exact haddr
  · rw [if_neg (by omega), if_neg (by omega)]
    omega

/-- Settles O46: each table lies below its register's mask, and the row and name add less than the table's size. -/
theorem rendererStaysInVram : Obligations.RendererStaysInVram := by
  unfold Obligations.RendererStaysInVram
  intro v hmask hline
  have h2 : v.reg[2].toNat ≤ 15 := hmask.le_mask 2
  have h3 : v.reg[3].toNat ≤ 255 := hmask.le_mask 3
  have h4 : v.reg[4].toNat ≤ 7 := hmask.le_mask 4
  have h5 : v.reg[5].toNat ≤ 127 := hmask.le_mask 5
  have h6 : v.reg[6].toNat ≤ 7 := hmask.le_mask 6
  refine ⟨fun i hi => ?_, fun i hi => ?_, fun name => ?_, fun n k hn hk => ?_, fun e srow sc => spritePatAddr_lt h6 e⟩
  · rw [nameAddr32_eq]; omega
  · rw [nameAddr40_eq]; omega
  · have hname := name.isLt
    have hpat : (v.line / 64 * 256 + name.toNat) &&& (v.reg[4].toNat % 4 * 256 + 255) ≤ v.line / 64 * 256 + name.toNat :=
      Nat.and_le_left
    have hcol : (v.line / 64 * 256 + name.toNat) &&& (v.reg[3].toNat % 128 * 8 + 7) ≤ v.line / 64 * 256 + name.toNat :=
      Nat.and_le_left
    rw [g1PatAddr_eq, g1ColAddr_eq, g2PatAddr_eq v hline, g2ColAddr_eq v hline, mcByteAddr_eq]
    refine ⟨by omega, by omega, ?_, ?_, by omega⟩
    · split <;> omega
    · split <;> omega
  · rw [tblSattr_eq]; omega

end Sys2Proof.Machine
end

section
/-! The PSG clock, the mixer, the delivery and the output frame (spec/45_mixer_scheduler.md, 43_vdp_render.md R233). -/

namespace Sys2Proof.Machine

/-- Settles O33: with room for the samples the clock's loop never stops, and it takes 16 cycles off per round. -/
theorem psgClockTicksEverySixteen : Obligations.PsgClockTicksEverySixteen := by
  unfold Obligations.PsgClockTicksEverySixteen
  intro c s hsn hay
  have hrounds : ∃ t, exec (.psgClock c) s = .next t := ⟨_, psgTicks_room _ (s.setSched _) hsn hay⟩
  obtain ⟨t, ht⟩ := hrounds
  rw [ht, psgClock_next ht]
  rfl

/-- A mixed sample of two non-negative ones: the sum where it fits, else the parameter's value (R295). -/
theorem mixSample_toInt (o : MixOverflow) {x y : Sample} (hx : 0 ≤ x.toInt) (hy : 0 ≤ y.toInt) :
    (mixSample o x y).toInt = if x.toInt + y.toInt ≤ 32767 then x.toInt + y.toInt
      else if o = .wrap then x.toInt + y.toInt - 65536 else 32767 := by
  have hx' : 2 * x.toInt < 2 ^ 16 := BitVec.two_mul_toInt_lt
  have hy' : 2 * y.toInt < 2 ^ 16 := BitVec.two_mul_toInt_lt
  have hexact : ∀ z : Int, -32768 ≤ z → z ≤ 32767 → (BitVec.ofInt 16 z).toInt = z := by
    intro z h1 h2
    rw [BitVec.toInt_ofInt, Int.bmod_eq_of_le (by omega) (by omega)]
  unfold mixSample
  dsimp only
  split
  case isTrue hfit => exact hexact _ (by omega) hfit
  case isFalse hover =>
    cases o with
    | wrap => exact hexact _ (by omega) (by omega)
    | saturate => exact hexact _ (by decide) (by decide)

/-- Sample `k` of the mix is the mix of samples `k` (R295). -/
theorem mixStreams_getElem? (o : MixOverflow) {n k : Nat} (hk : k < n) {sn ay : List Sample} {x y : Sample}
    (hx : sn[k]? = some x) (hy : ay[k]? = some y) : (mixStreams o n sn ay)[k]? = some (mixSample o x y) := by
  induction n generalizing k sn ay with
  | zero => omega
  | succ n ih =>
    cases sn with
    | nil => simp at hx
    | cons a sn =>
      cases ay with
      | nil => simp at hy
      | cons b ay =>
        rw [mixStreams]
        cases k with
        | zero =>
          rw [List.getElem?_cons_zero, Option.some.injEq] at hx hy ⊢
          rw [hx, hy]
        | succ k =>
          rw [List.getElem?_cons_succ] at hx hy ⊢
          exact ih (by omega) hx hy

/-- Settles O34: the streams are mixed sample by sample, in place. -/
theorem mixSumsTheStreams : Obligations.MixSumsTheStreams := by
  unfold Obligations.MixSumsTheStreams
  intro s hsn hay hsnPos hayPos
  refine ⟨mix s, rfl, rfl, State.onlySn_setSn s _, (mixStreams_length _ _ _ _).trans hsn, fun k x y hx hy => ?_⟩
  have hk : k < s.sn.psgsamps := by
    rw [← hsn]; exact (List.getElem?_eq_some_iff.1 hx).1
  exact ⟨_, mixStreams_getElem? _ hk hx hy,
    mixSample_toInt _ (hsnPos x (List.mem_of_getElem? hx)) (hayPos y (List.mem_of_getElem? hy))⟩

/-- Settles O35: the delivery is one call of the resampler and one event. -/
theorem deliveryCallsBackOnce : Obligations.DeliveryCallsBackOnce := by
  unfold Obligations.DeliveryCallsBackOnce
  intro s
  exact ⟨resampleAndDeliver s, rfl, ⟨resampled s, rfl, rfl, rfl⟩, rfl, rfl, rfl, rfl⟩

/-! ## The output frame -/

/-- Block `i` of a list of blocks of one length. -/
theorem take_drop_flatMap {α β : Type} {f : α → List β} {n : Nat} (hf : ∀ x, (f x).length = n) (l : List α) (i : Nat)
    (hi : i < l.length) : ((l.flatMap f).drop (n * i)).take n = f l[i] := by
  induction l generalizing i with
  | nil => simp at hi
  | cons x l ih =>
    rw [List.flatMap_cons]
    cases i with
    | zero => rw [Nat.mul_zero, List.drop_zero, List.take_left' (hf x)]; rfl
    | succ i =>
      rw [Nat.mul_succ, Nat.add_comm, ← List.drop_drop, List.drop_left' (hf x)]
      exact ih i (Nat.lt_of_succ_lt_succ hi)

theorem length_flatMap_const {α β : Type} {f : α → List β} {n : Nat} (hf : ∀ x, (f x).length = n) (l : List α) :
    (l.flatMap f).length = n * l.length := by
  induction l with
  | nil => rfl
  | cons x l ih => rw [List.flatMap_cons, List.length_append, hf, ih, List.length_cons, Nat.mul_succ, Nat.add_comm]

/-- One row of the output frame (R233). -/
def outputRow (s : State) (r : Fin 208) : List Byte := (List.finRange 272).flatMap fun c => pixelBytes (outputPixel s r c)

theorem outputBytes_eq (s : State) : outputBytes s = (List.finRange 208).flatMap (outputRow s) := rfl

theorem outputRow_length (s : State) (r : Fin 208) : (outputRow s r).length = 4 * 272 := by
  rw [outputRow, length_flatMap_const (n := 4) (fun _ => rfl), List.length_finRange]

/-- The bytes of the pixel at row `r` and column `c` (R233). -/
theorem outputBytes_pixel (s : State) (r : Fin 208) (c : Fin 272) :
    ((outputBytes s).drop (4 * (272 * r.val + c.val))).take 4 = pixelBytes (outputPixel s r c) := by
  have hrow : ((outputBytes s).drop (4 * 272 * r.val)).take (4 * 272) = outputRow s r := by
    rw [outputBytes_eq, take_drop_flatMap (outputRow_length s) _ r.val (by rw [List.length_finRange]; exact r.isLt),
      List.getElem_finRange]
    rfl
  have hpixel : ((outputRow s r).drop (4 * c.val)).take 4 = pixelBytes (outputPixel s r c) := by
    rw [outputRow, take_drop_flatMap (n := 4) (fun _ => rfl) _ c.val (by rw [List.length_finRange]; exact c.isLt),
      List.getElem_finRange]
    rfl
  have hfits : min 4 (4 * 272 - 4 * c.val) = 4 := by omega
  rw [← hpixel, ← hrow, List.drop_take, List.take_take, hfits, List.drop_drop]
  congr 2
  omega

theorem extractLsb'_append_low {n : Nat} (x : BitVec n) (y : Byte) : (x ++ y).extractLsb' 0 8 = y := by
  rw [BitVec.extractLsb'_append_eq_of_add_le (Nat.le_refl 8), BitVec.extractLsb'_eq_self]

theorem extractLsb'_append_high {n : Nat} (x : BitVec n) (y : Byte) (k : Nat) :
    (x ++ y).extractLsb' (k + 8) 8 = x.extractLsb' k 8 := by
  rw [BitVec.extractLsb'_append_eq_of_le (Nat.le_add_left 8 k), Nat.add_sub_cancel]

/-- The four bytes of a pixel, alpha last (20_memory.md R73). -/
theorem pixelBytes_append (a r g b : Byte) : pixelBytes (a ++ r ++ g ++ b) = [b, g, r, a] := by
  have hb := extractLsb'_append_low (a ++ r ++ g) b
  have hg := (extractLsb'_append_high (a ++ r ++ g) b 0).trans (extractLsb'_append_low (a ++ r) g)
  have hr := (extractLsb'_append_high (a ++ r ++ g) b 8).trans
    ((extractLsb'_append_high (a ++ r) g 0).trans (extractLsb'_append_low a r))
  have ha := (extractLsb'_append_high (a ++ r ++ g) b 16).trans ((extractLsb'_append_high (a ++ r) g 8).trans
    ((extractLsb'_append_high a r 0).trans BitVec.extractLsb'_eq_self))
  exact congr (congrArg _ hb) (congr (congrArg _ hg) (congr (congrArg _ hr) (congrArg (· :: []) ha)))

/-- A pixel is its four bytes. -/
theorem pixel_split (p : BitVec 32) :
    p = p.extractLsb' 24 8 ++ p.extractLsb' 16 8 ++ p.extractLsb' 8 8 ++ p.extractLsb' 0 8 := by
  rw [BitVec.extractLsb'_append_extractLsb'_eq_extractLsb' (show 24 = 16 + 8 from rfl),
    BitVec.extractLsb'_append_extractLsb'_eq_extractLsb' (show 16 = 8 + 8 from rfl),
    BitVec.extractLsb'_append_extractLsb'_eq_extractLsb' (show 8 = 0 + 8 from rfl)]
  exact BitVec.extractLsb'_eq_self.symm

/-- A palette entry is opaque (decision D20). -/
theorem paletteEntry_split (variant : PaletteVariant) (c : Colour) : ∃ r g b : Byte, paletteEntry variant c = 0xFF#8 ++ r ++ g ++ b := by
  unfold paletteEntry
  split
  · exact ⟨0, 0, 0, rfl⟩
  · have halpha : (0xFF#8 ++ Config.paletteRgb variant c).extractLsb' 24 8 = 0xFF#8 := by
      rw [BitVec.extractLsb'_append_eq_of_le (Nat.le_refl 24)]
      exact BitVec.extractLsb'_eq_self
    have hsplit := pixel_split (0xFF#8 ++ Config.paletteRgb variant c)
    rw [halpha] at hsplit
    exact ⟨_, _, _, hsplit⟩

/-- Settles O60: the frame is rows of one length, each of pixels of one length. -/
theorem outputPixelsAreOpaque : Obligations.OutputPixelsAreOpaque := by
  unfold Obligations.OutputPixelsAreOpaque
  refine ⟨fun s => ?_, fun s r c => ⟨rfl, outputBytes_pixel s r c⟩, fun variant c => ⟨fun hc => if_pos ?_, ?_⟩⟩
  · rw [outputBytes_eq, length_flatMap_const (outputRow_length s), List.length_finRange]
  · obtain h | h : c.toNat = 0 ∨ c.toNat = 1 := by omega
    · exact .inl (BitVec.eq_of_toNat_eq h)
    · exact .inr (BitVec.eq_of_toNat_eq h)
  · obtain ⟨r, g, b, h⟩ := paletteEntry_split variant c
    exact ⟨r, g, b, h, h ▸ pixelBytes_append 0xFF r g b⟩

end Sys2Proof.Machine
end

section
/-! The sprite pass: the walk over the table draws the first four covering sprites, sets 5S at the fifth, and leaves in FS the
entry it ended on (spec/44_vdp_sprites.md R262 to R270). -/

namespace Sys2Proof.Machine

/-! ## The table -/

section Table

variable (v : Vdp)

/-- Whether sprite `n` covers the current line (R264). -/
def spriteCovers (n : Nat) : Bool :=
  decide (spriteY v n ≤ v.line ∧ (v.line : Int) < spriteY v n + (spriteSide v * spriteZoom v : Nat))

/-- The covering sprites from entry `n` on. -/
def coveringFrom (n : Nat) : List Nat := (List.range' n (spriteTableLength v - n)).filter (spriteCovers v)

theorem coveringFrom_zero : coveringFrom v 0 = coveringSprites v := by
  rw [coveringFrom, Nat.sub_zero, ← List.range_eq_range']; rfl

/-- The table ends at its first entry with Y = 208, or after 32 entries (R262). -/
theorem spriteTableLength_spec : spriteTableLength v ≤ 32 ∧ (∀ n, n < spriteTableLength v → (v.spriteEntry n).isEnd = false) ∧
    (spriteTableLength v < 32 → (v.spriteEntry (spriteTableLength v)).isEnd = true) := by
  simp only [spriteEntry_isEnd, spriteTableLength]
  cases hfind : (List.range 32).find? fun n => decide (spriteByte v n 0 = 208) with
  | none =>
    rw [List.find?_range_eq_none] at hfind
    exact ⟨Nat.le_refl _, fun n hn => by simpa using hfind n hn, fun h => absurd h (Nat.lt_irrefl _)⟩
  | some m =>
    rw [List.find?_range_eq_some] at hfind
    obtain ⟨hend, hmem, hbefore⟩ := hfind
    exact ⟨Nat.le_of_lt (List.mem_range.1 hmem), fun n hn => by simpa using hbefore n hn, fun _ => hend⟩

variable {v}

/-- Within the table an entry is the end exactly where the table stops. -/
theorem isEnd_iff {n : Nat} (hn : n ≤ spriteTableLength v) (h32 : n < 32) :
    (v.spriteEntry n).isEnd = true ↔ n = spriteTableLength v := by
  obtain ⟨-, hbefore, hend⟩ := spriteTableLength_spec v
  constructor
  · intro h
    by_contra hne
    rw [hbefore n (by omega)] at h
    cases h
  · rintro rfl; exact hend h32

theorem coveringFrom_end : coveringFrom v (spriteTableLength v) = [] := by
  rw [coveringFrom, Nat.sub_self]; rfl

theorem coveringFrom_step {n : Nat} (hn : n < spriteTableLength v) :
    coveringFrom v n = if spriteCovers v n then n :: coveringFrom v (n + 1) else coveringFrom v (n + 1) := by
  have hlen : spriteTableLength v - n = (spriteTableLength v - (n + 1)) + 1 := by omega
  rw [coveringFrom, hlen, List.range'_succ, List.filter_cons]; rfl

theorem lt_of_mem_coveringFrom {n m : Nat} (h : m ∈ coveringFrom v n) : n ≤ m := by
  obtain ⟨hrange, -⟩ := List.mem_filter.1 h
  exact (List.mem_range'_1.1 hrange).1

end Table

/-! ## Drawing several sprites -/

namespace SpriteBuf

/-- What drawing the sprites `ns` in their order does to the columns and to C (R267, R269). -/
structure Drawn (v : Vdp) (b : SpriteBuf) (ns : List Nat) (d : SpriteBuf) : Prop where
  linebuf : ∀ x, (hx : x < 256) → d.linebuf[x] = if b.cbuf[x] then b.linebuf[x] else
    match ns.find? fun n => spriteHits v n x with
    | some n => (spriteByte v n 3).extractLsb' 0 4
    | none => b.linebuf[x]
  collision : d.status.getLsbD 5 = true ↔ b.status.getLsbD 5 = true ∨ ∃ x, ∃ hx : x < 256,
    (b.cbuf[x] = true ∧ ∃ n ∈ ns, spriteHits v n x = true) ∨
    ∃ m ∈ ns, ∃ n ∈ ns, m ≠ n ∧ spriteHits v m x = true ∧ spriteHits v n x = true

theorem Drawn.nil {v : Vdp} {b d : SpriteBuf} (hline : d.linebuf = b.linebuf) (hbit : d.status.getLsbD 5 = b.status.getLsbD 5) :
    Drawn v b [] d := by
  constructor
  · intro x hx; simp [hline]
  · rw [hbit]; simp

/-- The other status bits and the count have no part in the drawing. -/
theorem Drawn.congr {v : Vdp} {b c d : SpriteBuf} {ns : List Nat} (h : Drawn v c ns d) (hline : c.linebuf = b.linebuf)
    (hcbuf : c.cbuf = b.cbuf) (hbit : c.status.getLsbD 5 = b.status.getLsbD 5) : Drawn v b ns d := by
  obtain ⟨h1, h2⟩ := h
  simp only [hline, hcbuf, hbit] at h1 h2
  exact ⟨h1, h2⟩

/-- A sprite drawn before others hides theirs and collides with them (R267). -/
theorem Drawn.cons {v : Vdp} {b c d : SpriteBuf} {n : Nat} {ns : List Nat}
    (hn : DrawSpec b (spriteHits v n) ((spriteByte v n 3).extractLsb' 0 4) c) (hns : Drawn v c ns d) (hnew : n ∉ ns) :
    Drawn v b (n :: ns) d := by
  obtain ⟨hcols, hcoll, -⟩ := hn
  constructor
  · intro x hx
    obtain ⟨hc, hl⟩ := hcols x hx
    rw [hns.linebuf x hx, hc, hl, List.find?_cons]
    cases b.cbuf[x] <;> cases spriteHits v n x <;> simp
  · rw [hns.collision, hcoll]
    constructor
    · rintro ((h | ⟨x, hx, hhit, hb⟩) | ⟨x, hx, ⟨hc, m, hm, hhit⟩ | ⟨m, hm, k, hk, hne, hhit, hhit'⟩⟩)
      · exact .inl h
      · exact .inr ⟨x, hx, .inl ⟨hb, n, List.mem_cons_self, hhit⟩⟩
      · rw [(hcols x hx).1, Bool.or_eq_true] at hc
        obtain hc | hc := hc
        · exact .inr ⟨x, hx, .inl ⟨hc, m, List.mem_cons_of_mem _ hm, hhit⟩⟩
        · exact .inr ⟨x, hx, .inr ⟨n, List.mem_cons_self, m, List.mem_cons_of_mem _ hm, fun h => hnew (h ▸ hm), hc, hhit⟩⟩
      · exact .inr ⟨x, hx, .inr ⟨m, List.mem_cons_of_mem _ hm, k, List.mem_cons_of_mem _ hk, hne, hhit, hhit'⟩⟩
    · have hafter : ∀ x (hx : x < 256), spriteHits v n x = true → c.cbuf[x] = true := fun x hx h => by
        rw [(hcols x hx).1, h, Bool.or_true]
      rintro (h | ⟨x, hx, ⟨hb, m, hm, hhit⟩ | ⟨m, hm, k, hk, hne, hhit, hhit'⟩⟩)
      · exact .inl (.inl h)
      · obtain rfl | hm := List.mem_cons.1 hm
        · exact .inl (.inr ⟨x, hx, hhit, hb⟩)
        · exact .inr ⟨x, hx, .inl ⟨by rw [(hcols x hx).1, hb, Bool.true_or], m, hm, hhit⟩⟩
      · obtain rfl | hm' := List.mem_cons.1 hm
        · obtain rfl | hk' := List.mem_cons.1 hk
          · exact absurd rfl hne
          · exact .inr ⟨x, hx, .inl ⟨hafter x hx hhit, k, hk', hhit'⟩⟩
        · obtain rfl | hk' := List.mem_cons.1 hk
          · exact .inr ⟨x, hx, .inl ⟨hafter x hx hhit', m, hm', hhit⟩⟩
          · exact .inr ⟨x, hx, .inr ⟨m, hm', k, hk', hne, hhit, hhit'⟩⟩

/-! ## The walk -/

section Walk

variable {v : Vdp} {k n : Nat} {b : SpriteBuf}

theorem walk_end (h : (v.spriteEntry n).isEnd = true) : walk v (k + 1) n b = b := by
  rw [walk]; exact if_pos h

/-- An entry that does not cover the line only leaves its index in FS (R262, R270). -/
theorem walk_skip (h : (v.spriteEntry n).isEnd = false) (hc : spriteCovers v n = false) :
    walk v (k + 1) n b = walk v k (n + 1) { b with status := Status.setFs b.status n } := by
  rw [walk]
  dsimp only
  rw [if_neg (ne_true_of_eq_false h), spriteEntry_covers, if_pos (by rw [Bool.not_eq_true']; exact hc)]

/-- The fifth covering sprite ends the walk (R265). -/
theorem walk_fifth (h : (v.spriteEntry n).isEnd = false) (hc : spriteCovers v n = true) (hcount : b.count = 4) :
    walk v (k + 1) n b = { b with status := Status.setFifth (Status.setFs b.status n), count := 5 } := by
  rw [walk]
  dsimp only
  rw [if_neg (ne_true_of_eq_false h), spriteEntry_covers, if_neg (by rw [Bool.not_eq_true', Bool.not_eq_false]; exact hc), hcount,
    if_pos rfl]

/-- One of the first four covering sprites is drawn (R262). -/
theorem walk_draw (h : (v.spriteEntry n).isEnd = false) (hc : spriteCovers v n = true) (hcount : b.count < 4) :
    walk v (k + 1) n b =
      walk v k (n + 1) (draw v (v.spriteEntry n) { b with status := Status.setFs b.status n, count := b.count + 1 }) := by
  rw [walk]
  dsimp only
  rw [if_neg (ne_true_of_eq_false h), spriteEntry_covers, if_neg (by rw [Bool.not_eq_true', Bool.not_eq_false]; exact hc),
    if_neg (by omega)]

end Walk

/-- What the walk from entry `n` leaves: the drawing, 5S and FS (R262, R265, R270). -/
structure Walked (v : Vdp) (n : Nat) (b d : SpriteBuf) : Prop where
  drawn : Drawn v b ((coveringFrom v n).take (4 - b.count)) d
  fifth : d.status.getLsbD 6 = (b.status.getLsbD 6 || decide (5 ≤ b.count + (coveringFrom v n).length))
  fs : d.status.toNat % 32 = (coveringFrom v n)[4 - b.count]?.getD
    (if spriteTableLength v = n then b.status.toNat % 32 else spriteTableLength v - 1)

theorem Walked.at_end {v : Vdp} {n : Nat} {b : SpriteBuf} (h : n = spriteTableLength v) (hb : b.count ≤ 4) : Walked v n b b := by
  subst h
  constructor <;> rw [coveringFrom_end]
  · rw [List.take_nil]; exact .nil rfl rfl
  · have hfew : ¬ 5 ≤ b.count + ([] : List Nat).length := by rw [List.length_nil]; omega
    rw [decide_eq_false hfew, Bool.or_false]
  · rw [List.getElem?_nil, Option.getD_none, if_pos rfl]

/-- FS holds the index of the entry just read, so at the end of the table the last one's. -/
theorem fs_after_entry {v : Vdp} {n fs : Nat} (hn : n < spriteTableLength v) (hfs : fs = n) :
    (if spriteTableLength v = n + 1 then fs else spriteTableLength v - 1) =
      if spriteTableLength v = n then fs else spriteTableLength v - 1 := by
  split <;> split <;> omega

/-- The walk past an entry that does not cover the line. -/
theorem Walked.skip {v : Vdp} {n : Nat} {b d : SpriteBuf} (hn : n < spriteTableLength v) (hc : spriteCovers v n = false)
    (h : Walked v (n + 1) { b with status := Status.setFs b.status n } d) : Walked v n b d := by
  have h32 := (spriteTableLength_spec v).1
  constructor <;> rw [coveringFrom_step hn, if_neg (ne_true_of_eq_false hc)]
  · exact h.drawn.congr rfl rfl (Status.setFs_high _ _ _ (by decide) (by decide))
  · rw [h.fifth, Status.setFs_high _ _ _ (by decide) (by decide)]
  · rw [h.fs, Status.setFs_fs _ _ (by omega), fs_after_entry hn rfl, if_neg (by omega), if_neg (by omega)]

/-- The walk that ends on the fifth covering sprite. -/
theorem Walked.fifth_sprite {v : Vdp} {n : Nat} {b : SpriteBuf} (hn : n < spriteTableLength v) (hc : spriteCovers v n = true)
    (hb : b.count = 4) : Walked v n b { b with status := Status.setFifth (Status.setFs b.status n), count := 5 } := by
  have h32 := (spriteTableLength_spec v).1
  constructor <;> rw [coveringFrom_step hn, if_pos hc, hb]
  · exact .nil rfl ((Status.setFifth_bit5 _).trans (Status.setFs_high _ _ _ (by decide) (by decide)))
  · have hfive : 5 ≤ 4 + (n :: coveringFrom v (n + 1)).length := by rw [List.length_cons]; omega
    rw [Status.setFifth_bit6, decide_eq_true hfive, Bool.or_true]
  · rw [Status.setFifth_fs, Status.setFs_fs _ _ (by omega)]; rfl

/-- The walk past a drawn sprite. -/
theorem Walked.draw {v : Vdp} {n : Nat} {b c d : SpriteBuf} (hn : n < spriteTableLength v) (hc : spriteCovers v n = true)
    (hb : b.count < 4)
    (hdraw : DrawSpec { b with status := Status.setFs b.status n, count := b.count + 1 } (spriteHits v n)
      ((spriteByte v n 3).extractLsb' 0 4) c) (h : Walked v (n + 1) c d) : Walked v n b d := by
  have h32 := (spriteTableLength_spec v).1
  have ⟨_, _, hbit6, hfs, hcount⟩ := hdraw
  have hroom : 4 - b.count = (4 - c.count) + 1 := by rw [hcount]; dsimp only; omega
  constructor <;> rw [coveringFrom_step hn, if_pos hc]
  · rw [hroom, List.take_succ_cons]
    have hnew : n ∉ (coveringFrom v (n + 1)).take (4 - c.count) := fun hmem =>
      absurd (lt_of_mem_coveringFrom (List.mem_of_mem_take hmem)) (Nat.not_succ_le_self n)
    exact (Drawn.cons hdraw h.drawn hnew).congr rfl rfl (Status.setFs_high _ _ _ (by decide) (by decide))
  · have hsum : c.count + (coveringFrom v (n + 1)).length = b.count + (n :: coveringFrom v (n + 1)).length := by
      rw [hcount, List.length_cons]; dsimp only; omega
    rw [h.fifth, hsum, hbit6, Status.setFs_high _ _ _ (by decide) (by decide)]
  · rw [h.fs, hroom, List.getElem?_cons_succ, hfs, Status.setFs_fs _ _ (by omega), fs_after_entry hn rfl, if_neg (by omega),
      if_neg (by omega)]

theorem walk_spec (v : Vdp) (k n : Nat) (b : SpriteBuf) (hk : n + k = 32) (hn : n ≤ spriteTableLength v) (hb : b.count ≤ 4) :
    Walked v n b (walk v k n b) := by
  have h32 := (spriteTableLength_spec v).1
  induction k generalizing n b with
  | zero => exact .at_end (by omega) hb
  | succ k ih =>
    cases hend : (v.spriteEntry n).isEnd with
    | true => rw [walk_end hend]; exact .at_end ((isEnd_iff hn (by omega)).1 hend) hb
    | false =>
      have hlt : n < spriteTableLength v := by
        have hne : n ≠ spriteTableLength v := fun h => by rw [(isEnd_iff hn (by omega)).2 h] at hend; cases hend
        omega
      cases hc : spriteCovers v n with
      | false => rw [walk_skip hend hc]; exact .skip hlt hc (ih _ _ (by omega) hlt hb)
      | true =>
        by_cases hcount : b.count = 4
        · rw [walk_fifth hend hc hcount]; exact .fifth_sprite hlt hc hcount
        · rw [walk_draw hend hc (by omega)]
          have hdraw := draw_spec v n { b with status := Status.setFs b.status n, count := b.count + 1 }
          have hafter : (SpriteBuf.draw v (v.spriteEntry n) { b with status := Status.setFs b.status n, count := b.count + 1 }).count =
            b.count + 1 := hdraw.2.2.2.2
          exact .draw hlt hc (by omega) hdraw (ih _ _ (by omega) hlt (by rw [hafter]; omega))

/-- The whole pass, in terms of the covering sprites (R262). -/
theorem pass_spec (v : Vdp) : Walked v 0 (start v.status) (pass v) := walk_spec v 32 0 _ rfl (Nat.zero_le _) (Nat.zero_le _)

end SpriteBuf

/-- Settles O48: the pass draws the first four covering sprites on empty buffers. -/
theorem spritePriorityAndCollision : Obligations.SpritePriorityAndCollision := by
  unfold Obligations.SpritePriorityAndCollision
  intro v
  obtain ⟨hline, hcoll⟩ := (SpriteBuf.pass_spec v).drawn
  have hempty : ∀ x (hx : x < 256), (SpriteBuf.start v.status).cbuf[x] = false := fun x hx => Vector.getElem_replicate hx
  have hclear : ∀ x (hx : x < 256), (SpriteBuf.start v.status).linebuf[x] = 0 := fun x hx => Vector.getElem_replicate hx
  have hdrawn : (coveringFrom v 0).take (4 - (SpriteBuf.start v.status).count) = drawnSprites v := by
    rw [coveringFrom_zero]; rfl
  rw [hdrawn] at hline hcoll
  constructor
  · intro x
    have hx := hline x.val x.isLt
    rw [hempty, hclear, if_neg (by decide)] at hx
    exact hx
  · rw [hcoll]
    constructor
    · rintro (h | ⟨x, hx, ⟨hb, -⟩ | hpair⟩)
      · exact .inl h
      · rw [hempty x hx] at hb; cases hb
      · exact .inr ⟨x, hx, hpair⟩
    · rintro (h | ⟨x, hx, hpair⟩)
      · exact .inl h
      · exact .inr ⟨x, hx, .inr hpair⟩

/-! ## The status after a line -/

/-- Bits 6..0 of the status decide 5S, C and FS. -/
theorem sprite_status_of_low {x y : Byte} (h : x &&& 0x7F = y &&& 0x7F) :
    x.getLsbD 6 = y.getLsbD 6 ∧ x.getLsbD 5 = y.getLsbD 5 ∧ x.toNat % 32 = y.toNat % 32 := by
  have hlow : ∀ x : Byte, x.getLsbD 6 = (x &&& 0x7F).getLsbD 6 ∧ x.getLsbD 5 = (x &&& 0x7F).getLsbD 5 ∧
      x.toNat % 32 = (x &&& 0x7F).toNat % 32 := by decide +kernel
  obtain ⟨h6, h5, hfs⟩ := hlow x
  obtain ⟨k6, k5, kfs⟩ := hlow y
  rw [h6, h5, hfs, h, k6, k5, kfs]
  exact ⟨rfl, rfl, rfl⟩

theorem mode_text_iff (v : Vdp) : v.mode = .text ↔ v.modeNumber = 1 := by
  constructor
  · intro h
    unfold Vdp.mode at h
    split at h
    · cases h
    · split at h
      · assumption
      · split at h
        · cases h
        · split at h <;> cases h
  · exact mode_text

/-- The painting part of a line that runs a sprite pass takes the pass's status (R221, R262). -/
theorem renderLine_status_pass {s : State} (h : runsSpritePass s.vdp = true) :
    (renderLine s).vdp.status = (SpriteBuf.pass s.vdp).status := by
  simp only [runsSpritePass, Bool.and_eq_true, decide_eq_true_eq] at h
  obtain ⟨⟨hline, hbl⟩, hmode⟩ := h
  obtain ⟨-, hstatus, -⟩ := renderLine_row s hline hbl
  rw [hstatus, if_neg (mt (mode_text_iff s.vdp).1 hmode)]

theorem renderLine_status_keep {s : State} (h : runsSpritePass s.vdp = false) : (renderLine s).vdp.status = s.vdp.status := by
  by_cases hline : s.vdp.line < 192
  · cases hbl : s.vdp.bl with
    | true =>
      have htext : s.vdp.mode = .text := by
        by_contra hmode
        rw [runsSpritePass, decide_eq_true hline, show s.vdp.reg[1].getLsbD 6 = true from hbl,
          decide_eq_true (mt (mode_text_iff s.vdp).2 hmode)] at h
        cases h
      obtain ⟨-, hstatus, -⟩ := renderLine_row s hline hbl
      rw [hstatus, if_pos htext]
    | false => rw [renderLine_blank s hline hbl]; rfl
  · rw [renderLine_hidden s (by omega)]

/-- Settles O47: the advance keeps bits 6..0 of what the pass leaves. -/
theorem spritePassSetsFifthAndIndex : Obligations.SpritePassSetsFifthAndIndex := by
  unfold Obligations.SpritePassSetsFifthAndIndex
  intro s
  refine ⟨vdpLine s, rfl, fun h => ?_, fun h => ?_⟩
  · obtain ⟨h6, h5, hfs⟩ := sprite_status_of_low (vdpLine_status_low s)
    rw [renderLine_status_pass h] at h6 h5 hfs
    obtain ⟨-, hfifth, hindex⟩ := SpriteBuf.pass_spec s.vdp
    have hcount : (SpriteBuf.start s.vdp.status).count = 0 := rfl
    rw [coveringFrom_zero, hcount] at hfifth hindex
    refine ⟨h6.trans (hfifth.trans ?_), h5, hfs.trans (hindex.trans ?_)⟩
    · rw [Nat.zero_add]; rfl
    · cases (coveringSprites s.vdp)[4]? <;> rfl
  · rw [vdpLine_status_low, renderLine_status_keep h]

end Sys2Proof.Machine
end

section
/-! The CPU step: its bus operations and their charge (spec/45_mixer_scheduler.md R293, R294, R299). -/

namespace Sys2Proof.Machine

/-- The rows of an SN write (40_sn76489.md R120). -/
def isSnRow : Instr → Bool
  | .snLatchTone0 _ _ => true
  | .snLatchTone1 _ _ => true
  | .snLatchTone2 _ _ => true
  | .snLatchNoise _ _ => true
  | .snLatchAtt _ _ _ => true
  | .snData _ _ => true
  | _ => false

theorem isSnWrite_writeWord (p v : Byte) : isSnWrite (writeWord p v) = isSnPort p := by
  rw [isSnWrite, isWrite_writeWord, port_writeWord, Bool.true_and, isSnPort, Bool.beq_eq_decide_eq]

theorem isSnWrite_readWord (p : Byte) : isSnWrite (readWord p) = false := by
  rw [isSnWrite, isWrite_readWord, Bool.false_and]

theorem isSnPort_control {p : Byte} (h : isVdpControlPort p = true) : isSnPort p = false := by
  revert p; decide +kernel

theorem isSnPort_data {p : Byte} (h : isVdpDataPort p = true) : isSnPort p = false := by
  revert p; decide +kernel

/-- The word of a well-formed operation is an SN write exactly for the SN's rows. -/
theorem isSnWrite_encode {i : Instr} {w : PortWord} (hwf : i.wellFormed = true) (hw : encode i = some w) :
    isSnWrite w = isSnRow i := by
  cases i with
  | vdpDataRd p => cases hw; exact isSnWrite_readWord p
  | vdpStatusRd p => cases hw; exact isSnWrite_readWord p
  | ayRd => cases hw; exact isSnWrite_readWord _
  | frameExec => cases hw
  | vdpLine => cases hw
  | psgClock c => cases hw
  | snTick => cases hw
  | ayTick => cases hw
  | mix => cases hw
  | resampleAndDeliver => cases hw
  | vdpDataWr p v => cases hw; exact (isSnWrite_writeWord p _).trans (isSnPort_data hwf)
  | vdpCtrl1 p v => cases hw; exact (isSnWrite_writeWord p _).trans (isSnPort_control hwf)
  | vdpReadSetup p a => cases hw; exact (isSnWrite_writeWord p _).trans (isSnPort_control hwf)
  | vdpWriteSetup p a => cases hw; exact (isSnWrite_writeWord p _).trans (isSnPort_control hwf)
  | vdpRegForm p a => cases hw; exact (isSnWrite_writeWord p _).trans (isSnPort_control hwf)
  | vdpC0 p a => cases hw; exact (isSnWrite_writeWord p _).trans (isSnPort_control hwf)
  | snLatchTone0 p d => cases hw; exact (isSnWrite_writeWord p _).trans hwf
  | snLatchTone1 p d => cases hw; exact (isSnWrite_writeWord p _).trans hwf
  | snLatchTone2 p d => cases hw; exact (isSnWrite_writeWord p _).trans hwf
  | snLatchNoise p d => cases hw; exact (isSnWrite_writeWord p _).trans hwf
  | snLatchAtt p c d => cases hw; exact (isSnWrite_writeWord p _).trans hwf
  | snData p d => cases hw; exact (isSnWrite_writeWord p _).trans hwf
  | _ => cases hw; exact isSnWrite_writeWord _ _

/-- A port operation charges the CPU step for an SN write and for nothing else (R293). -/
theorem portEffect_penalty (i : Instr) (s : State) :
    (portEffect i s).sched.stepPenalty = s.sched.stepPenalty + if isSnRow i then 48 else 0 := by
  cases i with
  | vdpRegForm _ a => exact congrArg (·.sched.stepPenalty) (vdpRegForm_eq a s)
  | vdpC0 _ a =>
    obtain h | ⟨-, h⟩ := vdpC0_cases a s
    · exact congrArg (·.sched.stepPenalty) h
    · exact congrArg (·.sched.stepPenalty) (h.trans (vdpRegForm_eq a s))
  | ayWr v =>
    obtain ⟨-, -, hsched, -, -⟩ := onlyAy_ayWr v s
    exact congrArg (·.stepPenalty) hsched
  | _ => rfl

theorem busOp_ok {w : PortWord} {s : State} {i : Instr} (h : decodeWord s.latches w = .ok i) : busOp w s = portEffect i s := by
  simp only [busOp, h]

theorem busOp_error {w : PortWord} {s : State} {e : Reject} (h : decodeWord s.latches w = .error e) : busOp w s = s := by
  simp only [busOp, h]

/-- What a word decodes to is an SN row exactly when the word is an SN write. -/
theorem isSnRow_of_decodeWord {l : Latches} {w : PortWord} {i : Instr} (h : decodeWord l w = .ok i) : isSnRow i = isSnWrite w := by
  obtain ⟨hwf, hw⟩ := decodedWordIsTheEncoding l w i h
  rw [← isSnWrite_encode hwf hw]
  split
  case isTrue => rfl
  case isFalse hr => rw [isSnWrite_readWord, isSnWrite, eq_false_of_ne_true hr, Bool.false_and]

/-- An SN write always decodes (R90 step 3). -/
theorem not_isSnWrite_of_error {l : Latches} {w : PortWord} {e : Reject} (h : decodeWord l w = .error e) : isSnWrite w = false := by
  by_contra hsn
  simp only [Bool.not_eq_false, isSnWrite, Bool.and_eq_true, decide_eq_true_eq] at hsn
  obtain ⟨hwrite, hport⟩ := hsn
  rw [decodeWord, if_pos hwrite, decodeWrite_sn (beq_iff_eq.2 hport)] at h
  cases h

theorem busOp_penalty (w : PortWord) (s : State) :
    (busOp w s).sched.stepPenalty = s.sched.stepPenalty + if isSnWrite w then 48 else 0 := by
  cases h : decodeWord s.latches w with
  | ok i => rw [busOp_ok h, portEffect_penalty, isSnRow_of_decodeWord h]
  | error e => rw [busOp_error h, not_isSnWrite_of_error h]; rfl

theorem busOps_penalty (ops : List PortWord) (s : State) :
    (ops.foldl (fun t w => busOp w t) s).sched.stepPenalty = s.sched.stepPenalty + 48 * ops.countP isSnWrite := by
  induction ops generalizing s with
  | nil => rfl
  | cons w ops ih =>
    rw [List.foldl_cons, ih, busOp_penalty, List.countP_cons]
    split <;> omega

theorem busOps_frame (ops : List PortWord) (s : State) : BusFrame s (ops.foldl (fun t w => busOp w t) s) := by
  have h := runCpu_frame (CpuStep.prog ops 1) s
  rw [runCpu_prog] at h
  exact h

section Given

variable {s : State} {st : CpuStep} {rest : List CpuStep} (h : s.env.cpuSteps = st :: rest)
include h

theorem nextCpuStep_given : nextCpuStep s = (CpuStep.prog st.ops st.base, rest) := by
  simp only [nextCpuStep, h]

theorem beginCpuStep_given : beginCpuStep s =
    { s with sched := { s.sched with stepPenalty := 0 }, env := { s.env with cpuSteps := rest } } := by
  rw [beginCpuStep, nextCpuStep_given h]; rfl

/-- A given step reports its base count and 48 cycles per SN write (R293). -/
theorem cpuStep_given_cycles : (cpuStep s).2 = st.base + 48 * st.ops.countP isSnWrite := by
  rw [cpuStep, nextCpuStep_given h, runCpu_prog]
  dsimp only
  rw [busOps_penalty, beginCpuStep_given h]
  dsimp only
  rw [Nat.zero_add]

end Given

/-- Settles O49: the decoded operation runs as in exec, the charges add up along the step, and what the oracle is told of a bus
operation is the events it added. -/
theorem cpuStepChargesEachSnWrite : Obligations.CpuStepChargesEachSnWrite := by
  unfold Obligations.CpuStepChargesEachSnWrite
  refine ⟨fun s w => ⟨fun i hi => ?_, fun e he => busOp_error he⟩, fun s st rest h => ?_, fun s h => ?_, fun _ _ => rfl,
    fun w next s => ?_, fun _ _ _ _ _ _ => ⟨rfl, rfl, rfl, rfl, rfl⟩⟩
  · rw [busOp_ok hi]
    exact exec_portEffect (decodedWordIsTheEncoding _ w i hi).2 s
  · refine ⟨_, rfl, ?_, ?_, ?_⟩
    · rw [busOps_penalty]; exact Nat.zero_add _
    · rw [(busOps_frame st.ops _).env]
    · rw [cpuStep, nextCpuStep_given h, runCpu_prog, beginCpuStep_given h]
      dsimp only
      rw [busOps_penalty]
      dsimp only
      rw [Nat.zero_add]
      rfl
  · have hnext : nextCpuStep s = (Config.cpuStep (s.env.events.filterMap Event.cpuInput), []) := by
      simp only [nextCpuStep, h, cpuInputs]
    have hbegin : beginCpuStep s = { s with sched := { s.sched with stepPenalty := 0 } } := by
      rw [beginCpuStep, hnext, ← h]; rfl
    refine ⟨_, rfl, ?_⟩
    rw [cpuStep, hnext, hbegin]
    rfl
  · obtain ⟨ev, hev, -⟩ := busOp_events w s
    refine ⟨ev, hev, ?_⟩
    rw [runCpu, newEvents_of_append hev]
    rfl

end Sys2Proof.Machine
end

section
/-! The scanline and the frame (spec/45_mixer_scheduler.md R290 to R298). -/

namespace Sys2Proof.Machine

theorem Sn.tick_iterate_length (k : Nat) (c : Sn) : (Sn.tick^[k] c).snbuf.length = c.snbuf.length + k := by
  induction k with
  | zero => rfl
  | succ k ih => rw [Function.iterate_succ_apply', tick_snbuf, List.length_append, ih]; rfl

theorem Sn.tick_iterate_psgsamps (k : Nat) (c : Sn) : (Sn.tick^[k] c).psgsamps = c.psgsamps + k := by
  induction k with
  | zero => rfl
  | succ k ih => rw [Function.iterate_succ_apply', tick_psgsamps, ih]; rfl

theorem Ay.tick_iterate_length (k : Nat) (a : Ay) : (Ay.tick^[k] a).aybuf.length = a.aybuf.length + k := by
  induction k with
  | zero => rfl
  | succ k ih => rw [Function.iterate_succ_apply', tick_aybuf, List.length_append, ih]; rfl

theorem Ay.tick_iterate_sgmpsgsamps (k : Nat) (a : Ay) : (Ay.tick^[k] a).sgmpsgsamps = a.sgmpsgsamps + k := by
  induction k with
  | zero => rfl
  | succ k ih => rw [Function.iterate_succ_apply', tick_sgmpsgsamps, ih]; rfl

/-- What a CPU step followed by its PSG clock does to the scheduler's elements, of whatever it is made (R290, R292). -/
structure StepClocked (s u : State) (c : Nat) : Prop where
  line : u.vdp.line = s.vdp.line
  snbuf : u.sn.snbuf.length = s.sn.snbuf.length + (s.sched.psgcycs + c) / 16
  psgsamps : u.sn.psgsamps = s.sn.psgsamps + (s.sched.psgcycs + c) / 16
  aybuf : u.ay.aybuf.length = s.ay.aybuf.length + (s.sched.psgcycs + c) / 16
  sgmpsgsamps : u.ay.sgmpsgsamps = s.ay.sgmpsgsamps + (s.sched.psgcycs + c) / 16
  psgcycs : u.sched.psgcycs = (s.sched.psgcycs + c) % 16
  extcycs : u.sched.extcycs = s.sched.extcycs
  cfg : u.cfg = s.cfg
  env : u.env = { s.env with events := u.env.events, cpuSteps := (nextCpuStep s).2 }
  events : ∃ ev, u.env.events = ev ++ s.env.events ∧ reportedCycles ev = c

theorem stepClocked {s u : State} (h : psgClock (cpuStep s).2 (cpuStep s).1 = .next u) : StepClocked s u (cpuStep s).2 := by
  have hf := cpuStep_frame s
  have hcyc : (cpuStep s).1.sched.psgcycs = s.sched.psgcycs := by rw [hf.sched]
  have hu := psgClock_next h
  rw [hcyc] at hu
  constructor
  · rw [hu, State.setAy_vdp, State.setSn_vdp, State.setSched_vdp, hf.line]
  · rw [hu, State.setAy_sn, State.setSn_sn, Sn.tick_iterate_length, hf.snbuf]
  · rw [hu, State.setAy_sn, State.setSn_sn, Sn.tick_iterate_psgsamps, hf.psgsamps]
  · rw [hu, State.setAy_ay, Ay.tick_iterate_length, hf.aybuf]
  · rw [hu, State.setAy_ay, Ay.tick_iterate_sgmpsgsamps, hf.sgmpsgsamps]
  · rw [hu, State.setAy_sched, State.setSn_sched, State.setSched_sched]
  · rw [hu, State.setAy_sched, State.setSn_sched, State.setSched_sched, hf.sched]
  · rw [hu, State.setAy_cfg, State.setSn_cfg, State.setSched_cfg, hf.cfg]
  · rw [hu, State.setAy_env, State.setSn_env, State.setSched_env]; exact hf.env
  · rw [hu, State.setAy_env, State.setSn_env, State.setSched_env]; exact cpuStep_events s

/-! ## The scanline -/

/-- What a CPU slice whose steps reported `n` cycles has given the outside and has ticked (R290, R292). -/
structure SliceClocked (s u : State) (n : Nat) : Prop where
  events : ∃ ev, u.env.events = ev ++ s.env.events ∧ reportedCycles ev = n
  samples : s.sched.psgcycs < 16 → u.sched.psgcycs = (s.sched.psgcycs + n) % 16 ∧
    u.sn.snbuf.length = s.sn.snbuf.length + (s.sched.psgcycs + n) / 16 ∧
    u.ay.aybuf.length = s.ay.aybuf.length + (s.sched.psgcycs + n) / 16

theorem SliceClocked.refl (s : State) : SliceClocked s s 0 :=
  ⟨⟨[], rfl, rfl⟩, fun h => ⟨by omega, by omega, by omega⟩⟩

theorem SliceClocked.step {s u w : State} {n c : Nat} (h : SliceClocked s u n) (hw : StepClocked u w c) :
    SliceClocked s w (n + c) := by
  obtain ⟨⟨ev, hev, hn⟩, hsamples⟩ := h
  obtain ⟨ew, hew, hc⟩ := hw.events
  refine ⟨⟨ew ++ ev, by rw [hew, hev, List.append_assoc], by rw [reportedCycles_append, hn, hc, Nat.add_comm]⟩, fun hp => ?_⟩
  obtain ⟨hcyc, hsn, hay⟩ := hsamples hp
  have hsn' := hw.snbuf
  have hay' := hw.aybuf
  have hcyc' := hw.psgcycs
  refine ⟨by omega, by omega, by omega⟩

/-- The cycles of a slice are the sum of its steps' (R290). -/
theorem cpuSlice_clocked {fuel : Nat} {req m : Int} {s u : State} (h : cpuSlice fuel req 0 s = .next (u, m)) :
    ∃ n : Nat, m = n ∧ SliceClocked s u n :=
  cpuSlice_induct (P := fun u c => ∃ n : Nat, c = n ∧ SliceClocked s u n)
    (fun v c w ⟨n, hc, hn⟩ hw => ⟨n + (cpuStep v).2, by rw [hc, Int.natCast_add], hn.step (stepClocked hw)⟩) h
    ⟨0, rfl, .refl s⟩

/-- Settles O50: a slice adds up its steps' cycles and meets its budget; the overrun is the next credit. -/
theorem scanlineMeetsItsBudget : Obligations.ScanlineMeetsItsBudget := by
  unfold Obligations.ScanlineMeetsItsBudget
  refine ⟨fun _ _ _ _ => rfl, fun s t h => ?_⟩
  obtain ⟨u, m, hslice, rfl⟩ := scanline_next h
  obtain ⟨n, rfl, ⟨ev, hev, hn⟩, hsamples⟩ := cpuSlice_clocked hslice
  have hmet : lineBudget s ≤ n := cpuSlice_meets (by omega) hslice
  have hbudget : lineBudget s = 228 - s.sched.extcycs := rfl
  refine ⟨u, n, ev, hslice, hev, hn.symm, hmet, hsamples, ?_, ?_, fun hpaid => ?_⟩
  · rw [vdpLine_sched]; rfl
  · rw [vdpLine_sched, State.setSched_sched]
    dsimp only
    omega
  · have hzero : (lineBudget s).toNat = 0 := by omega
    rw [hzero] at hslice
    simp only [cpuSlice, Host.Outcome.next.injEq, Prod.mk.injEq] at hslice
    exact ⟨hslice.1.symm, by omega⟩

/-! ## The frame -/

/-- The scanlines of a frame as a sequence of states. -/
theorem scanlines_sequence {n : Nat} {s t : State} (h : scanlines n s = .next t) :
    ∃ f : Nat → State, f 0 = s ∧ f n = t ∧ ∀ k, k < n → scanline (f k) = .next (f (k + 1)) := by
  induction n generalizing s with
  | zero => injection h with h; exact ⟨fun _ => s, rfl, h, fun _ hk => absurd hk (Nat.not_lt_zero _)⟩
  | succ n ih =>
    obtain ⟨u, hu, h⟩ := andThen_eq_next.1 h
    obtain ⟨f, hzero, hlast, hstep⟩ := ih h
    refine ⟨fun k => Nat.casesOn k s f, rfl, hlast, fun k hk => ?_⟩
    cases k with
    | zero => exact hu.trans (congrArg _ hzero.symm)
    | succ k => exact hstep k (Nat.lt_of_succ_lt_succ hk)

/-- A scanline moves to the next line of the frame and wraps after the last (R221). -/
theorem scanline_line {s t : State} (h : scanline s = .next t) (hline : s.vdp.line < s.numScanlines) :
    t.vdp.line = (s.vdp.line + 1) % s.numScanlines ∧ t.numScanlines = s.numScanlines := by
  obtain ⟨u, m, hslice, rfl⟩ := scanline_next h
  obtain ⟨hkeep, hcfg⟩ := cpuSlice_induct (P := fun u _ => u.vdp.line = s.vdp.line ∧ u.cfg = s.cfg)
    (fun v _ w ⟨hv, hcfg⟩ hw => ⟨(stepClocked hw).line.trans hv, (stepClocked hw).cfg.trans hcfg⟩) hslice ⟨rfl, rfl⟩
  have hnum : u.numScanlines = s.numScanlines := by rw [State.numScanlines, hcfg]
  rw [vdpLine_line, vdpLine_numScanlines, State.setSched_vdp, State.setSched_numScanlines, hkeep, hnum]
  refine ⟨?_, rfl⟩
  split
  case isTrue hlast => rw [hlast, Nat.mod_self]
  case isFalse hlast => rw [Nat.mod_eq_of_lt (by omega)]

/-- After `n` scanlines the line has moved by `n`, modulo the frame's lines. -/
theorem scanlines_line {n : Nat} {s t : State} (h : scanlines n s = .next t) (hline : s.vdp.line < s.numScanlines) :
    t.vdp.line = (s.vdp.line + n) % s.numScanlines := by
  induction n generalizing s with
  | zero => cases h; rw [Nat.add_zero, Nat.mod_eq_of_lt hline]
  | succ n ih =>
    obtain ⟨u, hu, h⟩ := andThen_eq_next.1 h
    obtain ⟨hu, hnum⟩ := scanline_line hu hline
    have hlt : u.vdp.line < u.numScanlines := by rw [hu, hnum]; exact Nat.mod_lt _ (by omega)
    rw [ih h hlt, hu, hnum, Nat.mod_add_mod]
    congr 1; omega

/-- What the scanlines of a frame keep: the samples counted and paired, and what only the outside changes. -/
structure FrameKept (s u : State) : Prop where
  psgsamps : u.sn.psgsamps = u.sn.snbuf.length
  sgmpsgsamps : u.ay.sgmpsgsamps = u.ay.aybuf.length
  paired : u.sn.snbuf.length = u.ay.aybuf.length
  cfg : u.cfg = s.cfg
  stream : u.env.stream = s.env.stream
  resets : u.env.resets = s.env.resets

theorem FrameKept.step {s u w : State} {c : Nat} (h : FrameKept s u) (hpos : StepClocked u w c) : FrameKept s w where
  psgsamps := by rw [hpos.psgsamps, hpos.snbuf, h.psgsamps]
  sgmpsgsamps := by rw [hpos.sgmpsgsamps, hpos.aybuf, h.sgmpsgsamps]
  paired := by rw [hpos.snbuf, hpos.aybuf, h.paired]
  cfg := hpos.cfg.trans h.cfg
  stream := by rw [hpos.env, h.stream]
  resets := by rw [hpos.env, h.resets]

theorem FrameKept.line {s u : State} (h : FrameKept s u) (x : Sched) : FrameKept s (vdpLine (u.setSched x)) where
  psgsamps := by rw [vdpLine_sn]; exact h.psgsamps
  sgmpsgsamps := by rw [vdpLine_ay]; exact h.sgmpsgsamps
  paired := by rw [vdpLine_sn, vdpLine_ay]; exact h.paired
  cfg := by rw [vdpLine_cfg]; exact h.cfg
  stream := by rw [vdpLine_env]; exact h.stream
  resets := by rw [vdpLine_env]; exact h.resets

theorem scanlines_kept {n : Nat} {s t : State} (h : scanlines n (clearBuffers s) = .next t) : FrameKept s t :=
  scanlines_induct (P := FrameKept s) (fun _ _ hu hw => hu.step (stepClocked hw)) (fun _ _ hu => hu.line _) h
    ⟨rfl, rfl, rfl, rfl, rfl, rfl⟩

theorem clearBuffers_eq (s : State) : clearBuffers s =
    { s with sn := { s.sn with snbuf := [], psgsamps := 0 }, ay := { s.ay with aybuf := [], sgmpsgsamps := 0 } } := rfl

/-- Settles O51: the scanlines move the line through the frame once, and the mix and the delivery keep the counts. -/
theorem frameReturnsToItsLine : Obligations.FrameReturnsToItsLine := by
  unfold Obligations.FrameReturnsToItsLine
  intro s t h
  obtain ⟨u, hu, rfl⟩ := frameExec_next h
  have hkept := scanlines_kept hu
  have hmix : (mix u).sn.snbuf.length = u.sn.snbuf.length := mixStreams_length _ _ _ _
  refine ⟨?_, fun hline => ?_, ?_, hkept.sgmpsgsamps, ?_, hkept.cfg, hkept.stream, hkept.resets⟩
  · obtain ⟨f, hzero, hlast, hstep⟩ := scanlines_sequence hu
    exact ⟨f, mix u, hzero.trans (clearBuffers_eq s), hstep, congrArg (fun v => Host.Outcome.next (mix v)) hlast, rfl⟩
  · have hend : u.vdp.line = _ := scanlines_line hu hline
    have hclear : (clearBuffers s).vdp.line = s.vdp.line ∧ (clearBuffers s).numScanlines = s.numScanlines := ⟨rfl, rfl⟩
    rw [hclear.1, hclear.2, Nat.add_mod_right, Nat.mod_eq_of_lt hline] at hend
    exact hend
  · exact hkept.psgsamps.trans hmix.symm
  · exact hmix.trans hkept.paired

end Sys2Proof.Machine
end

section
/-! A frame of given CPU steps completes within the buffers' bound (spec/45_mixer_scheduler.md R290 to R292, 00_scope.md R7). -/

namespace Sys2Proof.Machine

/-- The Z80 cycles that the PSG clock has taken since the buffers were emptied: 16 per sample, and the remainder (R292). -/
def psgCyclesTaken (s : State) : Nat := 16 * s.sn.snbuf.length + s.sched.psgcycs

/-- The state of a frame in progress: no step takes more than `E` cycles, the given steps outlast the `limit` cycles that all
the frame's lines take, and the buffers of capacity `cap` hold those cycles' samples and one step's. -/
structure FrameBounded (E limit cap : Nat) (s : State) : Prop where
  paired : s.ay.aybuf.length = s.sn.snbuf.length
  psgcycs : s.sched.psgcycs ≤ 15
  steps : limit ≤ s.env.cpuSteps.length + psgCyclesTaken s
  bound : ∀ st ∈ s.env.cpuSteps, st.base + 48 * st.ops.length ≤ E
  capacity : s.cfg.psgBufCap = cap
  room : (limit + E) / 16 ≤ cap

section Steps

variable {E limit cap : Nat} {s : State}

/-- With the budget of the frame not met a given step is left. -/
theorem FrameBounded.exists_step (h : FrameBounded E limit cap s) (hlt : psgCyclesTaken s < limit) :
    ∃ st rest, s.env.cpuSteps = st :: rest := by
  have hsteps := h.steps
  cases hs : s.env.cpuSteps with
  | nil => rw [hs, List.length_nil] at hsteps; omega
  | cons st rest => exact ⟨st, rest, rfl⟩

theorem FrameBounded.cycles_le (h : FrameBounded E limit cap s) (hlt : psgCyclesTaken s < limit) : (cpuStep s).2 ≤ E := by
  obtain ⟨st, rest, hs⟩ := h.exists_step hlt
  have hst : st.base + 48 * st.ops.length ≤ E := h.bound st (by rw [hs]; exact List.mem_cons_self)
  have hcount : st.ops.countP isSnWrite ≤ st.ops.length := List.countP_le_length
  rw [cpuStep_given_cycles hs]
  omega

theorem StepClocked.cycles {u : State} {c : Nat} (h : StepClocked s u c) : psgCyclesTaken u = psgCyclesTaken s + c := by
  have hsn := h.snbuf
  have hcyc := h.psgcycs
  unfold psgCyclesTaken
  omega

/-- While the budget of the frame is not met, the next CPU step and its PSG clock complete (R290, R292). -/
theorem FrameBounded.step (h : FrameBounded E limit cap s) (hlt : psgCyclesTaken s < limit) :
    ∃ u, psgClock (cpuStep s).2 (cpuStep s).1 = .next u ∧ StepClocked s u (cpuStep s).2 ∧ FrameBounded E limit cap u := by
  have hcycles := h.cycles_le hlt
  have hpos := cpuStep_pos s
  have hf := cpuStep_frame s
  have hcyc : (cpuStep s).1.sched.psgcycs = s.sched.psgcycs := by rw [hf.sched]
  have hroom : s.sn.snbuf.length + (s.sched.psgcycs + (cpuStep s).2) / 16 ≤ s.cfg.psgBufCap := by
    have := h.room
    have := h.capacity
    unfold psgCyclesTaken at hlt
    omega
  obtain ⟨u, hu⟩ : ∃ u, psgClock (cpuStep s).2 (cpuStep s).1 = .next u := by
    refine ⟨_, psgTicks_room _ _ ?_ ?_⟩
    · rw [State.setSched_sn, State.setSched_cfg, hf.snbuf, hf.cfg, hcyc]; exact hroom
    · rw [State.setSched_ay, State.setSched_cfg, hf.aybuf, hf.cfg, hcyc, h.paired]; exact hroom
  have hclock := stepClocked hu
  obtain ⟨st, rest, hs⟩ := h.exists_step hlt
  have hrest : u.env.cpuSteps = rest := by rw [hclock.env, nextCpuStep_given hs]
  refine ⟨u, hu, hclock, ?_, ?_, ?_, ?_, hclock.cfg ▸ h.capacity, h.room⟩
  · rw [hclock.snbuf, hclock.aybuf, h.paired]
  · rw [hclock.psgcycs]; omega
  · have hsteps := h.steps
    rw [hs, List.length_cons] at hsteps
    rw [hrest, hclock.cycles]
    omega
  · intro st' hmem
    exact h.bound st' (by rw [hs]; exact List.mem_cons_of_mem _ (hrest ▸ hmem))

/-- A slice whose budget lies within the frame's completes; it overruns by less than one step's cycles (R291). -/
theorem FrameBounded.slice (h : FrameBounded E limit cap s) {fuel : Nat} {req c : Int}
    (hbudget : (psgCyclesTaken s : Int) + (req - c) ≤ limit) :
    ∃ u n, cpuSlice fuel req c s = .next (u, n) ∧ FrameBounded E limit cap u ∧ u.sched.extcycs = s.sched.extcycs ∧
      u.cfg = s.cfg ∧ (psgCyclesTaken u : Int) = psgCyclesTaken s + (n - c) ∧ (n = c ∨ n < req + E) := by
  induction fuel generalizing s c with
  | zero => exact ⟨s, c, rfl, h, rfl, rfl, by omega, .inl rfl⟩
  | succ fuel ih =>
    by_cases hc : c < req
    · obtain ⟨u, hu, hclock, hbounded⟩ := h.step (by omega)
      have hcycles := h.cycles_le (by omega)
      have htaken := hclock.cycles
      obtain ⟨w, n, hw, hwb, hext, hcfg, hwt, hn⟩ := ih hbounded (c := c + (cpuStep s).2) (by omega)
      refine ⟨w, n, ?_, hwb, hext.trans hclock.extcycs, hcfg.trans hclock.cfg, by omega, .inr (by omega)⟩
      rw [cpuSlice, if_pos hc, hu]
      exact hw
    · exact ⟨s, c, by rw [cpuSlice, if_neg hc], h, rfl, rfl, by omega, .inl rfl⟩

/-- The line step and the new credit have no part in the bounds. -/
theorem FrameBounded.line (h : FrameBounded E limit cap s) (e : Nat) :
    FrameBounded E limit cap (vdpLine (s.setSched { s.sched with extcycs := e })) ∧
    psgCyclesTaken (vdpLine (s.setSched { s.sched with extcycs := e })) = psgCyclesTaken s := by
  have htaken : psgCyclesTaken (vdpLine (s.setSched { s.sched with extcycs := e })) = psgCyclesTaken s := by
    unfold psgCyclesTaken; rw [vdpLine_sn, vdpLine_sched]; rfl
  refine ⟨⟨?_, ?_, ?_, ?_, ?_, h.room⟩, htaken⟩
  · rw [vdpLine_sn, vdpLine_ay]; exact h.paired
  · rw [vdpLine_sched]; exact h.psgcycs
  · rw [htaken, vdpLine_env]; exact h.steps
  · rw [vdpLine_env]; exact h.bound
  · rw [vdpLine_cfg]; exact h.capacity

/-- A scanline whose budget lies within the frame's completes; what it takes beyond 228 cycles is the growth of the credit, which
stays at most `E` (R290, R291). -/
theorem FrameBounded.scanline (h : FrameBounded E limit cap s) (hext : s.sched.extcycs ≤ E)
    (hbudget : psgCyclesTaken s + 228 ≤ limit + s.sched.extcycs) :
    ∃ t, scanline s = .next t ∧ FrameBounded E limit cap t ∧ t.sched.extcycs ≤ E ∧ t.cfg = s.cfg ∧
      psgCyclesTaken t + s.sched.extcycs = psgCyclesTaken s + 228 + t.sched.extcycs := by
  have hreq : lineBudget s = 228 - s.sched.extcycs := rfl
  obtain ⟨u, n, hu, hbounded, -, hcfg, htaken, hn⟩ :=
    h.slice (fuel := (lineBudget s).toNat) (req := lineBudget s) (c := 0) (by omega)
  have hmet : lineBudget s ≤ n := cpuSlice_meets (by omega) hu
  obtain ⟨hline, htaken'⟩ := hbounded.line (n - lineBudget s).toNat
  have hcredit : (vdpLine (u.setSched { u.sched with extcycs := (n - lineBudget s).toNat })).sched.extcycs =
      (n - lineBudget s).toNat := by rw [vdpLine_sched]; rfl
  refine ⟨_, ?_, hline, ?_, ?_, ?_⟩
  · rw [Machine.scanline, hu]; rfl
  · rw [hcredit]; omega
  · rw [vdpLine_cfg]; exact hcfg
  · rw [hcredit, htaken']; omega

theorem FrameBounded.scanlines (h : FrameBounded E limit cap s) {n : Nat} (hext : s.sched.extcycs ≤ E)
    (hbudget : psgCyclesTaken s + 228 * n ≤ limit + s.sched.extcycs) :
    ∃ t, scanlines n s = .next t ∧ FrameBounded E limit cap t ∧ t.sched.extcycs ≤ E ∧
      psgCyclesTaken t + s.sched.extcycs = psgCyclesTaken s + 228 * n + t.sched.extcycs := by
  induction n generalizing s with
  | zero => exact ⟨s, rfl, h, hext, by omega⟩
  | succ n ih =>
    obtain ⟨u, hu, hub, hue, -, hut⟩ := h.scanline hext (by omega)
    obtain ⟨t, ht, htb, hte, htt⟩ := ih hub hue (by omega)
    refine ⟨t, ?_, htb, hte, by omega⟩
    rw [Machine.scanlines, hu]
    exact ht

end Steps

/-- Settles O52: the cycles taken run from the accumulator at the frame's start up to 228 per line and one step's overrun, and each
16 of them are one sample. -/
theorem frameCompletesWithinCapacity : Obligations.FrameCompletesWithinCapacity := by
  unfold Obligations.FrameCompletesWithinCapacity
  intro s E hsteps hbound hext hcyc hcap
  have htaken : psgCyclesTaken (clearBuffers s) = s.sched.psgcycs := Nat.zero_add _
  have hstart : FrameBounded E (s.sched.psgcycs + 228 * s.numScanlines) s.cfg.psgBufCap (clearBuffers s) :=
    ⟨rfl, hcyc, by rw [htaken]; exact Nat.add_comm _ _ ▸ Nat.add_le_add_right hsteps _, hbound, rfl, by omega⟩
  obtain ⟨t, ht, hbounded, hcredit, htotal⟩ := hstart.scanlines (n := s.numScanlines) hext (by rw [htaken]; omega)
  have hkept := scanlines_kept ht
  rw [htaken] at htotal
  refine ⟨resampleAndDeliver (mix t), ?_, hcredit, hbounded.psgcycs, ?_⟩
  · show frameExec s = _
    rw [frameExec, ht]; rfl
  · show t.sn.psgsamps ≤ _
    rw [hkept.psgsamps]
    unfold psgCyclesTaken at htotal
    omega

end Sys2Proof.Machine
end
